-- ==== Sys2Proof/Word.lean ====
section
/-! DEFINITION. Word.lean: the bit-vector types of CODEC's fields (00_scope.md R7, R10, R11).
Every value is unsigned and of a stated width; a byte sequence is a finite list whose index 0 comes first. -/

namespace Sys2Proof

/-- A byte: payload bytes, chunk status bytes, the packet's `payload_length` and `sync`, the request's `HDR` (R7, R10). -/
abbrev Byte := BitVec 8

/-- A 16-bit value: `SEQ`, the sequence field, a command opcode, a duration (R7). -/
abbrev Half := BitVec 16

/-- A 32-bit value: the checksum and its accumulator `ACC` (R7). -/
abbrev Word := BitVec 32

/-- A byte sequence `bs` of R10: index 0 is the first byte laid out and the first byte handed on. -/
abbrev Bytes := List Byte

/-- A command name: a string of 0 or more characters (R60), compared character for character (R105).
It is held as its characters, so that the comparison is the one the rule describes. -/
abbrev CommandName := List Char

end Sys2Proof
end

