-- ==== Sys2Proof/Config.lean ====
section
/-! DEFINITION. Config.lean: the hardwired constants (00_scope.md R9, 10_state.md R25), the configuration parameters that
the model takes as arguments (R8), and this hardware's configuration, whose open parameters are opaque constants. -/

namespace Sys2Proof

/-- The two values of `DURATION_BYTE_ORDER` (R8). -/
inductive ByteOrder where
  | BE
  | LE
deriving DecidableEq, Repr, Inhabited

/-- A catalog entry, the source's CommandSpec `{name, opcode, payload_encoder}` (R101), with the payload shape id that
RESOLVE returns for it. The encoder is a pure, total function of the request's `DUR` (R104). -/
structure CommandSpec where
  name    : CommandName
  opcode  : Half
  shape   : Byte
  encoder : Half → Bytes

/-- The configuration (R8, R20, R262): fixed before the first request, never changed while CODEC runs, and so no part of
State. `extraEntries` is what `CATALOG` holds beyond the two entries of R101. -/
structure Params where
  durationByteOrder : ByteOrder
  extraEntries      : List CommandSpec
  maxDataLen        : Nat

namespace Config

/-! The constants of R9. -/

def SYNC : Byte := 0x62#8
def FOOTER : Half := 0x2323#16
def POLY : Word := 0x04C11DB7#32
def CRC_INIT : Word := 0xFFFFFFFF#32
def OPC_BEEP : Half := 0x0100#16
def OPC_FLASH : Half := 0x0202#16
def ST_FULL : Byte := 0x04#8
def ST_TERM1 : Byte := 0x05#8
def ST_TERM2 : Byte := 0x06#8
/-- Reserved, never emitted (R70, R71). -/
def ST_TERM3 : Byte := 0x07#8
def MAX_PAYLOAD : Nat := 255
/-- The length of the longest RawPacket, `12 + 255` (R68), and the least value `MAX_DATA_LEN` may have (R8). -/
def LONGEST_PACKET : Nat := 267
/-- The payload shape id DUR16 (R101). -/
def SHAPE_DUR16 : Byte := 0x01#8

/-- The names R101 registers, and the name R105 spells as unregistered. -/
def nameBeep : CommandName := ['b', 'e', 'e', 'p']
def nameFlash : CommandName := ['f', 'l', 'a', 's', 'h']
def nameUnknown : CommandName := ['u', 'n', 'k', 'n', 'o', 'w', 'n']

/-- OPEN (R42, D6): the byte order of the duration payload. Nothing in Lean can evaluate it, so what is proved of this
hardware is proved for both orders (notes/assumptions/1.md). -/
opaque durationByteOrder : ByteOrder

/-- OPEN (R8, R64, D12): by how much `MAX_DATA_LEN` exceeds its least value 267 (notes/assumptions/2.md). -/
opaque maxDataLenExcess : Nat

/-- This hardware: exactly the two entries of R101, and the two open parameters left open (R8, R104). -/
def hw : Params where
  durationByteOrder := durationByteOrder
  extraEntries := []
  maxDataLen := maxDataLenExcess + LONGEST_PACKET

end Config

/-- The constraints on a configuration: `MAX_DATA_LEN` is at least 267 (R8), the entries of R101 stand unchanged and
no two entries have the same name (R104). -/
def Params.Legal (p : Params) : Prop :=
  Config.LONGEST_PACKET ≤ p.maxDataLen ∧
    (Config.nameBeep :: Config.nameFlash :: p.extraEntries.map CommandSpec.name).Nodup

end Sys2Proof
end

