-- ==== Sys2Proof/Syntax.lean ====
section
/-! DEFINITION. Syntax.lean: the request record (30_encoding.md R60), the instructions (one constructor per row of
spec/opcode_table.json), the three encodings the table's rows belong to, and the assembler lines of R74 and R75. -/

namespace Sys2Proof

/-- The request record (R60). An operation ignores the fields it does not use; a field that is not given is 0 or empty (R74). -/
structure Request where
  hdr  : Byte
  name : CommandName := []
  dur  : Half := 0#16
  seqv : Half := 0#16
  data : Bytes := []
deriving DecidableEq, Repr

/-- The six operation selectors of R62. -/
inductive Op where
  | resolve
  | crc
  | build
  | seqNext
  | chunk
  | encodeCommand
deriving DecidableEq, Repr

/-- The rows of spec/opcode_table.json, in its order.
The first six are the operations of R62. `beep` and `flash` are the command opcodes of R73, which R75 names as instructions
too. The last four are the chunk status codes of R70: each stands for the chunk encoder's emission of one chunk with that status. -/
inductive Instr where
  /-- RESOLVE, R100. -/
  | resolve (name : CommandName)
  /-- CRC, R121. -/
  | crc (data : Bytes)
  /-- BUILD, R141. -/
  | build (name : CommandName) (dur seqv : Half)
  /-- SEQ_NEXT, R170. -/
  | seqNext
  /-- CHUNK, R191. -/
  | chunk (data : Bytes)
  /-- ENCODE_COMMAND, R210. -/
  | encodeCommand (name : CommandName) (dur : Half)
  /-- BEEP: command opcode 0x0100 (R73, R101); as an instruction, `ENCODE_COMMAND "beep", <dur>` (R75). -/
  | beep (dur : Half)
  /-- FLASH: command opcode 0x0202 (R73, R101); as an instruction, `ENCODE_COMMAND "flash", <dur>` (R75). -/
  | flash (dur : Half)
  /-- ST_FULL 0x04 (R70): three valid data bytes, not terminal. -/
  | stFull (d0 d1 d2 : Byte)
  /-- ST_TERM1 0x05 (R70): terminal, one valid data byte, `d1 = d2 = 0x00`. -/
  | stTerm1 (d0 : Byte)
  /-- ST_TERM2 0x06 (R70): terminal, two valid data bytes, `d2 = 0x00`. -/
  | stTerm2 (d0 d1 : Byte)
  /-- ST_TERM3 0x07 (R70, R71): reserved, three valid data bytes, never emitted. -/
  | stTerm3 (d0 d1 d2 : Byte)
deriving DecidableEq, Repr

/-- An instruction's words, in the encoding its table row belongs to: a request record (R60), the command a RawPacket
carries (opcode field and duration, R67, R102), or one 4-byte chunk of a TransportFrame (R70). -/
inductive Words where
  | request (r : Request)
  | command (opc dur : Half)
  | chunk (status d0 d1 d2 : Byte)
deriving DecidableEq, Repr

/-- The lines of the assembler syntax (R74) and its pseudo-instructions (R75): `none` is an omitted `<dur>`. -/
inductive Line where
  | resolve (name : CommandName)
  | crc (data : Bytes)
  | build (name : CommandName) (dur : Option Half) (seqv : Half)
  | seqNext
  | chunk (data : Bytes)
  | encodeCommand (name : CommandName) (dur : Option Half)
  | beep (dur : Option Half)
  | flash (dur : Option Half)
deriving DecidableEq, Repr

end Sys2Proof
end

