-- ==== Sys2Proof/Decode.lean ====
section
/-! DEFINITION. Decode.lean: the decoders of the three encodings of 30_encoding.md, total and rejecting by name; the
encoder; the assembler of R74 and R75; and the opcode table's words. -/

namespace Sys2Proof

/-- Why words spell no instruction. -/
inductive Reject where
  /-- `OPSEL` is 0x0 or 0x7-0xF, or `HDR[7:4]` is not 0 (R63). CODEC answers such a request with ReqRefused. -/
  | illegalHeader (hdr : Byte)
  /-- A 16-bit opcode the catalog does not assign (R73). -/
  | unassignedOpcode (opc : Half)
  /-- A chunk status outside 0x04-0x07: no meaning in any source (R71). -/
  | unknownStatus (status : Byte)
  /-- A terminal chunk whose padding is not 0x00 (R70). -/
  | paddingNotZero (status : Byte)
deriving DecidableEq, Repr

/-! ## Request headers (R60, R62, R63, R66) -/

/-- `OPSEL` = `HDR[3:0]` (R60). -/
def opsel (hdr : Byte) : BitVec 4 := hdr.extractLsb' 0 4

/-- The reserved bits `HDR[7:4]`, which must be 0 (R60). -/
def reservedBits (hdr : Byte) : BitVec 4 := hdr.extractLsb' 4 4

/-- The operation a header selects (R62); `none` for the illegal headers of R63. -/
def headerOp (hdr : Byte) : Option Op :=
  if reservedBits hdr = 0x0#4 then
    match (opsel hdr).toNat with
    | 1 => some .resolve
    | 2 => some .crc
    | 3 => some .build
    | 4 => some .seqNext
    | 5 => some .chunk
    | 6 => some .encodeCommand
    | _ => none
  else none

/-- The header byte of an operation (R62). -/
def opHeader : Op → Byte
  | .resolve => 0x01#8
  | .crc => 0x02#8
  | .build => 0x03#8
  | .seqNext => 0x04#8
  | .chunk => 0x05#8
  | .encodeCommand => 0x06#8

/-- The operation with the request fields it uses (R60's last column); the other fields have no effect. -/
def operandsOf (op : Op) (r : Request) : Instr :=
  match op with
  | .resolve => .resolve r.name
  | .crc => .crc r.data
  | .build => .build r.name r.dur r.seqv
  | .seqNext => .seqNext
  | .chunk => .chunk r.data
  | .encodeCommand => .encodeCommand r.name r.dur

/-- Decoding a request: the operation is fixed by `HDR` alone (R66). -/
def decodeRequest (r : Request) : Except Reject Instr :=
  match headerOp r.hdr with
  | some op => .ok (operandsOf op r)
  | none => .error (.illegalHeader r.hdr)

/-! ## Command opcodes (R73) and chunks (R70) -/

/-- The command opcodes this hardware's catalog assigns (R73). -/
def decodeCommand (opc dur : Half) : Except Reject Instr :=
  if opc = Config.OPC_BEEP then .ok (.beep dur)
  else if opc = Config.OPC_FLASH then .ok (.flash dur)
  else .error (.unassignedOpcode opc)

/-- The chunk status codes (R70): padding bytes are 0x00. -/
def decodeChunk (status d0 d1 d2 : Byte) : Except Reject Instr :=
  if status = Config.ST_FULL then .ok (.stFull d0 d1 d2)
  else if status = Config.ST_TERM1 then
    if d1 = 0x00#8 ∧ d2 = 0x00#8 then .ok (.stTerm1 d0) else .error (.paddingNotZero status)
  else if status = Config.ST_TERM2 then
    if d2 = 0x00#8 then .ok (.stTerm2 d0 d1) else .error (.paddingNotZero status)
  else if status = Config.ST_TERM3 then .ok (.stTerm3 d0 d1 d2)
  else .error (.unknownStatus status)

/-- The decoder, total on any words. CODEC itself decodes requests only: it has no receive path, so the other two
encodings are read by no operation (R69, R71); they are decoded here so that every row of the opcode table is. -/
def decode : Words → Except Reject Instr
  | .request r => decodeRequest r
  | .command opc dur => decodeCommand opc dur
  | .chunk status d0 d1 d2 => decodeChunk status d0 d1 d2

/-! ## The encoder -/

/-- The words of an instruction, from the same tables: R62 with R74 (fields a line does not name are 0 or empty), R73, R70. -/
def encode : Instr → Words
  | .resolve name => .request { hdr := opHeader .resolve, name := name }
  | .crc data => .request { hdr := opHeader .crc, data := data }
  | .build name dur seqv => .request { hdr := opHeader .build, name := name, dur := dur, seqv := seqv }
  | .seqNext => .request { hdr := opHeader .seqNext }
  | .chunk data => .request { hdr := opHeader .chunk, data := data }
  | .encodeCommand name dur => .request { hdr := opHeader .encodeCommand, name := name, dur := dur }
  | .beep dur => .command Config.OPC_BEEP dur
  | .flash dur => .command Config.OPC_FLASH dur
  | .stFull d0 d1 d2 => .chunk Config.ST_FULL d0 d1 d2
  | .stTerm1 d0 => .chunk Config.ST_TERM1 d0 0x00#8 0x00#8
  | .stTerm2 d0 d1 => .chunk Config.ST_TERM2 d0 d1 0x00#8
  | .stTerm3 d0 d1 d2 => .chunk Config.ST_TERM3 d0 d1 d2

/-- The instruction a line spells: an omitted `<dur>` is 0 (R75). -/
def lineInstr : Line → Instr
  | .resolve name => .resolve name
  | .crc data => .crc data
  | .build name dur seqv => .build name (dur.getD 0#16) seqv
  | .seqNext => .seqNext
  | .chunk data => .chunk data
  | .encodeCommand name dur => .encodeCommand name (dur.getD 0#16)
  | .beep dur => .beep (dur.getD 0#16)
  | .flash dur => .flash (dur.getD 0#16)

/-- The request by which an instruction is presented to CODEC. An operation is its own request (R74). BEEP and FLASH are
the ENCODE_COMMAND requests of R75. A chunk that CODEC emits is what CHUNK answers for the chunk's valid bytes (R190,
R191; notes/assumptions/3.md). No request makes CODEC emit the reserved ST_TERM3 (R71). -/
def asRequest : Instr → Option Request
  | .resolve name => some { hdr := opHeader .resolve, name := name }
  | .crc data => some { hdr := opHeader .crc, data := data }
  | .build name dur seqv => some { hdr := opHeader .build, name := name, dur := dur, seqv := seqv }
  | .seqNext => some { hdr := opHeader .seqNext }
  | .chunk data => some { hdr := opHeader .chunk, data := data }
  | .encodeCommand name dur => some { hdr := opHeader .encodeCommand, name := name, dur := dur }
  | .beep dur => some { hdr := opHeader .encodeCommand, name := Config.nameBeep, dur := dur }
  | .flash dur => some { hdr := opHeader .encodeCommand, name := Config.nameFlash, dur := dur }
  | .stFull d0 d1 d2 => some { hdr := opHeader .chunk, data := [d0, d1, d2] }
  | .stTerm1 d0 => some { hdr := opHeader .chunk, data := [d0] }
  | .stTerm2 d0 d1 => some { hdr := opHeader .chunk, data := [d0, d1] }
  | .stTerm3 _ _ _ => none

/-- A line assembles to a request (R74, R75). -/
def assemble (l : Line) : Option Request := asRequest (lineInstr l)

/-! ## The opcode table's words -/

/-- A word of spec/opcode_table.json. An 8-bit word at the request port is a header (R60, R66), with the other fields 0
or empty; a 16-bit word is a packet's opcode field, with duration 0. The four 8-bit chunk status rows share their words
with SEQ_NEXT, CHUNK, ENCODE_COMMAND and the illegal header 0x07, and are read as those (notes/assumptions/4.md). -/
def tableWords (nbits w : Nat) : Words :=
  if nbits ≤ 8 then .request { hdr := BitVec.ofNat 8 w } else .command (BitVec.ofNat 16 w) 0#16

/-- The instruction the decoder reads from a table row's word. -/
def decodeTableWord (nbits w : Nat) : Option Instr :=
  match decode (tableWords nbits w) with
  | .ok i => some i
  | .error _ => none

/-- The request that presents a word of the table to CODEC. A word that spells no instruction is presented with a header
that spells no operation (R63). -/
def presentedRequest : Words → Request
  | .request r => r
  | w =>
    match decode w with
    | .ok i => (asRequest i).getD { hdr := 0x00#8 }
    | .error _ => { hdr := 0x00#8 }

end Sys2Proof
end

