-- ==== Sys2Proof/Machine/State.lean ====
section
/-! DEFINITION. Machine/State.lean: CODEC's state, what stands at its request and response ports, its state after reset,
and the reasons a step can stop. -/

namespace Sys2Proof.Machine

/-- The `STATUS` field of a response (60_exceptions.md R231). Its codes are in Flags.lean. -/
inductive Status where
  | ok
  | unknownCommand
  | payloadTooLarge
  /-- Never CODEC's: reserved for the host's report of a failed send (R234). -/
  | transportSendFailed
  | reqRefused
deriving DecidableEq, Repr

/-- The `RESULT` field of a response, by operation (R61). -/
inductive Result where
  /-- RESOLVE: `OPC` and `SHAPE`. -/
  | spec (opc : Half) (shape : Byte)
  /-- CRC: `CRC`. -/
  | crc (value : Word)
  /-- BUILD: `PKT`, a RawPacket. -/
  | packet (pkt : Bytes)
  /-- SEQ_NEXT: `SEQN`. -/
  | seqn (value : Half)
  /-- CHUNK and ENCODE_COMMAND: `FRAME`, a TransportFrame. -/
  | frame (bytes : Bytes)
deriving DecidableEq, Repr

/-- The response record (R61). -/
structure Response where
  status : Status
  result : Option Result
deriving DecidableEq, Repr

/-- What resets CODEC: power-on, session start and session teardown (R260). -/
inductive ResetCause where
  | powerOn
  | sessionStart
  | sessionTeardown
deriving DecidableEq, Repr

/-- What can be presented to CODEC: a request, or a reset between requests (R261). -/
inductive Event where
  | request (r : Request)
  | reset (cause : ResetCause)
deriving DecidableEq, Repr

/-- CODEC and what stands at its two ports.

`seq` is CODEC's whole architectural state (R20, R23). `response` is the response port (R31). The last two fields are the
environment's, not CODEC's: what each requester has still to present, in that requester's own order (R22, R241), and the
arbitration's choices to come (R47). Arbitration is free, so `grants` may be any list, and a claim about every state
is a claim about every arbitration order. -/
structure State where
  /-- `SEQ`: the last sequence number handed out this session (R23). -/
  seq : Half
  /-- The response port: the response to the last request, `none` until the first request after reset completes (R31). -/
  response : Option Response
  /-- One stream of events for each requester, or other source of events. -/
  requesters : List (List Event)
  /-- The arbitration's choices, next first: which of the requesters that present something goes next. -/
  grants : List Nat
deriving DecidableEq, Repr

/-- CODEC after reset: `SEQ` is 0 and the response port carries no response (R31, R260). Nothing is presented yet. -/
def State.reset : State where
  seq := 0x0000#16
  response := none
  requesters := []
  grants := []

/-- Reasons for a fault: none. Every request either completes or is answered ReqRefused (R272, 93_implementation_defined.md §1),
and an error is reported in the response, never by stopping the machine (R230, R237). -/
inductive Fault where
deriving DecidableEq, Repr

/-- Reasons to give an instruction no meaning. -/
inductive Refusal where
  /-- Raised by exec for an instruction that has no meaning yet. Safe: nothing can be proved of what it would do. -/
  | notModelled (mnemonic : String)
  /-- Raised by the meaning of ST_TERM3: chunk status 0x07 is reserved and never emitted, and nothing in CODEC reads it
  (R70, R71). No request decodes to it, so no step raises this. Safe: nothing can be proved of what it would do. -/
  | reservedChunkStatus
deriving DecidableEq, Repr

end Sys2Proof.Machine
end

