-- ==== Sys2Proof/Machine/Flags.lean ====
section
/-! DEFINITION. Machine/Flags.lean: CODEC has no flags, condition codes or sticky error bits (10_state.md R27). What reports
an outcome is the 4-bit `STATUS` code of the response; this file gives its codes (60_exceptions.md R231). -/

namespace Sys2Proof.Machine

/-- The `STATUS` codes (R231). -/
def Status.code : Status → BitVec 4
  | .ok => 0x0#4
  | .unknownCommand => 0x1#4
  | .payloadTooLarge => 0x2#4
  | .transportSendFailed => 0x3#4
  | .reqRefused => 0xF#4

/-- The status a code names; `none` for the reserved codes 0x4-0xE (R231). -/
def statusOfCode (c : BitVec 4) : Option Status :=
  match c.toNat with
  | 0 => some .ok
  | 1 => some .unknownCommand
  | 2 => some .payloadTooLarge
  | 3 => some .transportSendFailed
  | 15 => some .reqRefused
  | _ => none

end Sys2Proof.Machine
end

