-- ==== Sys2Proof/Machine/Operands.lean ====
section
/-! DEFINITION. Machine/Operands.lean: operand assembly (30_encoding.md R65): byte orders, the duration payload, the
catalog and its lookup, the payload bound, and the fields read back from a packet (R69). -/

namespace Sys2Proof.Machine

/-! ## Byte order (R11, R41) -/

/-- `v[15:8]`. -/
def hiByte (v : Half) : Byte := v.extractLsb' 8 8

/-- `v[7:0]`. -/
def loByte (v : Half) : Byte := v.extractLsb' 0 8

def be16 (v : Half) : Bytes := [hiByte v, loByte v]

def le16 (v : Half) : Bytes := [loByte v, hiByte v]

def be32 (v : Word) : Bytes :=
  [v.extractLsb' 24 8, v.extractLsb' 16 8, v.extractLsb' 8 8, v.extractLsb' 0 8]

/-- The 16-bit value whose `be16` is the two bytes (R69). -/
def ofBe16 (hi lo : Byte) : Half := hi ++ lo

/-- `be32⁻¹` (R69, R143). -/
def ofBe32 (b0 b1 b2 b3 : Byte) : Word := b0 ++ b1 ++ b2 ++ b3

/-! ## The catalog (40_catalog.md R101-R105) -/

/-- The DUR16 payload encoder (R102): `be16(d)` or `le16(d)`, always two bytes. -/
def encDur16 (order : ByteOrder) (d : Half) : Bytes :=
  [if order = .BE then hiByte d else loByte d, if order = .BE then loByte d else hiByte d]

/-- The catalog's two required entries (R101). -/
def beepSpec (order : ByteOrder) : CommandSpec where
  name := Config.nameBeep
  opcode := Config.OPC_BEEP
  shape := Config.SHAPE_DUR16
  encoder := encDur16 order

def flashSpec (order : ByteOrder) : CommandSpec where
  name := Config.nameFlash
  opcode := Config.OPC_FLASH
  shape := Config.SHAPE_DUR16
  encoder := encDur16 order

/-- `CATALOG`: the entries of R101 and any further ones of the configuration (R104). -/
def catalog (p : Params) : List CommandSpec :=
  beepSpec p.durationByteOrder :: flashSpec p.durationByteOrder :: p.extraEntries

/-- `lookup(CATALOG, n)`: the entry whose name is `n`, as a whole string (R105). -/
def lookup (entries : List CommandSpec) (name : CommandName) : Option CommandSpec :=
  entries.find? (fun e => decide (e.name = name))

/-- `encode_payload(e, d)` (R103): PayloadTooLarge above 255 bytes. -/
def encodePayload (e : CommandSpec) (d : Half) : Except Status Bytes :=
  if Config.MAX_PAYLOAD < (e.encoder d).length then .error .payloadTooLarge else .ok (e.encoder d)

/-! ## Reading a packet's fields back (R69) -/

/-- `bs[i]`, 0x00 beyond the end. -/
def byteAt (bs : Bytes) (i : Nat) : Byte := bs.getD i 0x00#8

/-- `bs[i .. j]`, the inclusive slice (R10). -/
def slice (bs : Bytes) (i j : Nat) : Bytes := (bs.take (j + 1)).drop i

def pktSeq (pkt : Bytes) : Half := ofBe16 (byteAt pkt 5) (byteAt pkt 6)

def pktOpcode (pkt : Bytes) : Half := ofBe16 (byteAt pkt 7) (byteAt pkt 8)

/-- `L = pkt[9]`, which alone fixes where the payload ends. -/
def pktPayloadLength (pkt : Bytes) : Nat := (byteAt pkt 9).toNat

def pktPayload (pkt : Bytes) : Bytes := (pkt.drop 10).take (pktPayloadLength pkt)

def pktFooter (pkt : Bytes) : Half :=
  ofBe16 (byteAt pkt (10 + pktPayloadLength pkt)) (byteAt pkt (11 + pktPayloadLength pkt))

def pktChecksum (pkt : Bytes) : Word :=
  ofBe32 (byteAt pkt 1) (byteAt pkt 2) (byteAt pkt 3) (byteAt pkt 4)

end Sys2Proof.Machine
end

