-- ==== Sys2Proof/Machine/Ops.lean ====
section
/-! DEFINITION. Machine/Ops.lean: the shared operations over the state: answering a request, raising an error kind, drawing
a sequence number, reset, and arbitration of what the requesters present. CODEC has no memory, so no operation computes
an address (20_memory.md R40). -/

namespace Sys2Proof.Machine

/-- The outcome of one step of CODEC. -/
abbrev Outcome := Host.Outcome State Fault Refusal

/-! ## Updates -/

/-- `SEQ <- v` (R12). -/
def State.setSeq (s : State) (v : Half) : State := { s with seq := v }

/-- A response stands at the response port. -/
def State.setResponse (s : State) (r : Response) : State := { s with response := some r }

/-! ## Answering (R12, R61, R230) -/

/-- `return r`: status OK and result `r`. -/
def respond (r : Result) (s : State) : Outcome := .next (s.setResponse ⟨.ok, some r⟩)

/-- `raise E`: the operation ends with E's status and no result. This is all that CODEC has of an exception: nothing is
saved, no mode changes, no control is transferred, and there is nothing to return from (R230, R237, R238). -/
def raise (e : Status) (s : State) : Outcome := .next (s.setResponse ⟨e, none⟩)

/-! ## The sequence register (R170-R172) -/

/-- The number a draw hands out: `(SEQ + 1) mod 2^16`. -/
def nextSeq (v : Half) : Half := v + 1#16

/-- One draw: read, increment and write of `SEQ`, atomic because a step is (R171). -/
def draw (s : State) : Half × State := (nextSeq s.seq, s.setSeq (nextSeq s.seq))

/-! ## Reset (R260) -/

/-- A reset between requests: `SEQ` is 0, and the response port carries no response until the next request completes
(R31). What is presented is the environment's and stays. -/
def resetBy (_ : ResetCause) (s : State) : State :=
  { s with seq := State.reset.seq, response := State.reset.response }

/-! ## Arbitration (R47, R261) -/

/-- The choice `n` among the requesters that present something: the `n`-th of them, or the last if there are fewer. The
event is the next of that requester's own stream. `none` when nothing is presented. -/
def takeFrom : List (List Event) → Nat → Option (Event × List (List Event))
  | [], _ => none
  | [] :: rest, n =>
    match takeFrom rest n with
    | some p => some (p.1, [] :: p.2)
    | none => none
  | (e :: es) :: rest, 0 => some (e, es :: rest)
  | (e :: es) :: rest, n + 1 =>
    match takeFrom rest n with
    | some p => some (p.1, (e :: es) :: p.2)
    | none => some (e, es :: rest)

/-- The next event in the order arbitration has chosen, taken off what is presented. With no choice left, the first
requester that presents something goes next, so every presented event is accepted in the end (R272). -/
def fetch (s : State) : Option (Event × State) :=
  match takeFrom s.requesters (s.grants.headD 0) with
  | none => none
  | some p => some (p.1, { s with requesters := p.2, grants := s.grants.tail })

/-- The request `r` presented by one more requester, which arbitration lets go next. -/
def State.present (s : State) (r : Request) : State :=
  { s with requesters := [.request r] :: s.requesters, grants := 0 :: s.grants }

/-- How many events are presented and not yet accepted. -/
def State.pending (s : State) : Nat := (s.requesters.map List.length).sum

end Sys2Proof.Machine
end

