-- ==== Sys2Proof/Machine/Catalog.lean ====
section
/-! DEFINITION. Machine/Catalog.lean: RESOLVE (40_catalog.md). -/

namespace Sys2Proof.Machine

/-- RESOLVE (R100) under a configuration: the payload encoder is not run. -/
def resolveIn (p : Params) (name : CommandName) (s : State) : Outcome :=
  match lookup (catalog p) name with
  | none => raise .unknownCommand s
  | some e => respond (.spec e.opcode e.shape) s

/-- RESOLVE (R100). -/
def execResolve (name : CommandName) (s : State) : Outcome := resolveIn Config.hw name s

end Sys2Proof.Machine
end

