-- ==== Sys2Proof/Machine/Checksum.lean ====
section
/-! DEFINITION. Machine/Checksum.lean: the Checksum Engine and CRC (41_checksum.md). -/

namespace Sys2Proof.Machine

/-- `crc_round` (R120): bit 31 is tested before the shift. -/
def crcRound (a : Word) : Word :=
  if a.getLsbD 31 then (a <<< 1) ^^^ Config.POLY else a <<< 1

/-- `k` rounds. -/
def crcRounds : Nat → Word → Word
  | 0, a => a
  | k + 1, a => crcRounds k (crcRound a)

/-- `crc_byte` (R120): the byte goes into `ACC[31:24]`, then eight rounds. -/
def crcByte (a : Word) (b : Byte) : Word := crcRounds 8 (a ^^^ (b.setWidth 32 <<< 24))

/-- `checksum` (R120): from all-ones, the bytes in index order, no final XOR. The accumulator `ACC` is the fold's value;
it does not outlive the computation (R28). -/
def checksum (bs : Bytes) : Word := bs.foldl crcByte Config.CRC_INIT

/-- CRC (R121) under a configuration. -/
def crcIn (p : Params) (data : Bytes) (s : State) : Outcome :=
  if data.length ≤ p.maxDataLen then respond (.crc (checksum data)) s else raise .reqRefused s

/-- CRC (R121). -/
def execCrc (data : Bytes) (s : State) : Outcome := crcIn Config.hw data s

end Sys2Proof.Machine
end

