-- ==== Sys2Proof/Machine/Builder.lean ====
section
/-! DEFINITION. Machine/Builder.lean: the Packet Builder and BUILD (42_packet_builder.md). -/

namespace Sys2Proof.Machine

/-- The packet buffer with its checksum bytes temporarily zero (R140, R67). -/
def draft (seq opc : Half) (payload : Bytes) : Bytes :=
  [Config.SYNC] ++ [0x00#8, 0x00#8, 0x00#8, 0x00#8] ++ be16 seq ++ be16 opc ++ [BitVec.ofNat 8 payload.length] ++
    payload ++ be16 Config.FOOTER

/-- `layout(seq, opc, p)` (R140): the checksum of bytes 5..end goes big-endian into bytes 1-4 of the draft. -/
def layout (seq opc : Half) (payload : Bytes) : Bytes :=
  let pkt := draft seq opc payload
  pkt.take 1 ++ be32 (checksum (pkt.drop 5)) ++ pkt.drop 5

/-- BUILD (R141) under a configuration: `SEQ` is neither read nor written. -/
def buildIn (p : Params) (name : CommandName) (dur seqv : Half) (s : State) : Outcome :=
  match lookup (catalog p) name with
  | none => raise .unknownCommand s
  | some e =>
    match encodePayload e dur with
    | .error err => raise err s
    | .ok payload => respond (.packet (layout seqv e.opcode payload)) s

/-- BUILD (R141). -/
def execBuild (name : CommandName) (dur seqv : Half) (s : State) : Outcome := buildIn Config.hw name dur seqv s

end Sys2Proof.Machine
end

