-- ==== Sys2Proof/Machine/Chunker.lean ====
section
/-! DEFINITION. Machine/Chunker.lean: the Transport Chunk Encoder, CHUNK, and the chunk status codes of the opcode table
(44_chunk_encoder.md, 30_encoding.md R70). -/

namespace Sys2Proof.Machine

/-- How many of a chunk's data bytes are valid: R70's column, 0x07's three among them. Any other status has no meaning in
any source (R71), and so no valid bytes. CODEC reads no frame; claims about frames use this (R194). -/
def validBytes (status : Byte) : Nat :=
  if status = Config.ST_FULL then 3
  else if status = Config.ST_TERM1 then 1
  else if status = Config.ST_TERM2 then 2
  else if status = Config.ST_TERM3 then 3
  else 0

/-- The chunk emitted while at least three bytes remain (R190). -/
def emitFull (b0 b1 b2 : Byte) : Bytes := [Config.ST_FULL, b0, b1, b2]

/-- The chunk emitted when exactly two bytes remain (R190). -/
def emitTerm2 (b0 b1 : Byte) : Bytes := [Config.ST_TERM2, b0, b1, 0x00#8]

/-- The chunk emitted when exactly one byte remains (R190). -/
def emitTerm1 (b0 : Byte) : Bytes := [Config.ST_TERM1, b0, 0x00#8, 0x00#8]

/-- `chunk(bs)` (R190). The input cursor is the list still to be read; it does not outlive the operation (R28). -/
def chunk : Bytes → Bytes
  | b0 :: b1 :: b2 :: rest => emitFull b0 b1 b2 ++ chunk rest
  | [b0, b1] => emitTerm2 b0 b1
  | [b0] => emitTerm1 b0
  | [] => []

/-- CHUNK (R191) under a configuration. -/
def chunkIn (p : Params) (data : Bytes) (s : State) : Outcome :=
  if data.length ≤ p.maxDataLen then respond (.frame (chunk data)) s else raise .reqRefused s

/-- CHUNK (R191). -/
def execChunk (data : Bytes) (s : State) : Outcome := chunkIn Config.hw data s

/-! ## The chunk status rows (R70)
Each is the encoder's emission of one chunk, answered as the frame that holds that chunk and nothing else: what CHUNK
answers for the chunk's valid bytes (notes/assumptions/3.md). -/

/-- ST_FULL (R70, R190). -/
def execStFull (d0 d1 d2 : Byte) (s : State) : Outcome := respond (.frame (emitFull d0 d1 d2)) s

/-- ST_TERM1 (R70, R190). -/
def execStTerm1 (d0 : Byte) (s : State) : Outcome := respond (.frame (emitTerm1 d0)) s

/-- ST_TERM2 (R70, R190). -/
def execStTerm2 (d0 d1 : Byte) (s : State) : Outcome := respond (.frame (emitTerm2 d0 d1)) s

/-- ST_TERM3 (R70, R71, R193): reserved. CODEC never emits it and reads no frame, so the spec gives it no effect. -/
def execStTerm3 (_ _ _ : Byte) (_ : State) : Outcome := .refused .reservedChunkStatus

end Sys2Proof.Machine
end

