-- ==== Sys2Proof/Machine/Pipeline.lean ====
section
/-! DEFINITION. Machine/Pipeline.lean: ENCODE_COMMAND and its pseudo-instructions BEEP and FLASH (45_pipeline.md, R75). -/

namespace Sys2Proof.Machine

/-- ENCODE_COMMAND (R210) under a configuration: resolve, draw, encode the payload, lay out, chunk. An unknown name
leaves `SEQ` as it was; after the draw `SEQ` stays advanced whatever follows (R211). -/
def encodeCommandIn (p : Params) (name : CommandName) (dur : Half) (s : State) : Outcome :=
  match lookup (catalog p) name with
  | none => raise .unknownCommand s
  | some e =>
    match draw s with
    | (v, s') =>
      match encodePayload e dur with
      | .error err => raise err s'
      | .ok payload => respond (.frame (chunk (layout v e.opcode payload))) s'

/-- ENCODE_COMMAND (R210). -/
def execEncodeCommand (name : CommandName) (dur : Half) (s : State) : Outcome := encodeCommandIn Config.hw name dur s

/-- BEEP = `ENCODE_COMMAND "beep", <dur>` (R75). -/
def execBeep (dur : Half) (s : State) : Outcome := encodeCommandIn Config.hw Config.nameBeep dur s

/-- FLASH = `ENCODE_COMMAND "flash", <dur>` (R75). -/
def execFlash (dur : Half) (s : State) : Outcome := encodeCommandIn Config.hw Config.nameFlash dur s

end Sys2Proof.Machine
end

