-- ==== Sys2Proof/Machine/Sequence.lean ====
section
/-! DEFINITION. Machine/Sequence.lean: the Sequence Generator's SEQ_NEXT (43_sequence.md). -/

namespace Sys2Proof.Machine

/-- SEQ_NEXT (R170): pre-increment; it cannot fail. -/
def execSeqNext (s : State) : Outcome :=
  match draw s with
  | (v, s') => respond (.seqn v) s'

end Sys2Proof.Machine
end

