-- ==== Sys2Proof/Machine/Dispatch.lean ====
section
/-! DEFINITION. Machine/Dispatch.lean: one arm for each instruction of spec/opcode_table.json. -/

namespace Sys2Proof.Machine

def exec (i : Instr) (s : State) : Host.Outcome State Fault Refusal :=
  match i with
  | .resolve name => Sys2Proof.Machine.execResolve name s
  | .crc data => Sys2Proof.Machine.execCrc data s
  | .build name dur seqv => Sys2Proof.Machine.execBuild name dur seqv s
  | .seqNext => Sys2Proof.Machine.execSeqNext s
  | .chunk data => Sys2Proof.Machine.execChunk data s
  | .encodeCommand name dur => Sys2Proof.Machine.execEncodeCommand name dur s
  | .beep dur => Sys2Proof.Machine.execBeep dur s
  | .flash dur => Sys2Proof.Machine.execFlash dur s
  | .stFull d0 d1 d2 => Sys2Proof.Machine.execStFull d0 d1 d2 s
  | .stTerm1 d0 => Sys2Proof.Machine.execStTerm1 d0 s
  | .stTerm2 d0 d1 => Sys2Proof.Machine.execStTerm2 d0 d1 s
  | .stTerm3 d0 d1 d2 => Sys2Proof.Machine.execStTerm3 d0 d1 d2 s

end Sys2Proof.Machine
end

