-- ==== Sys2Proof/Machine/Step.lean ====
section
/-! DEFINITION. Machine/Step.lean: one step of CODEC: the next presented event, in the order arbitration has chosen, is
performed as one atomic, untimed step (20_memory.md R47, 70_reset_and_hazards.md R275). -/

namespace Sys2Proof.Machine

/-- One step. With nothing presented CODEC waits, unchanged (R22). A reset falls between requests (R261). A request that
spells no operation is answered ReqRefused and changes no state (R63, R235). -/
def step (s : State) : Host.Outcome State Fault Refusal :=
  match fetch s with
  | none => .next s
  | some (.reset cause, s') => .next (resetBy cause s')
  | some (.request r, s') =>
    match decodeRequest r with
    | .error _ => raise .reqRefused s'
    | .ok i => exec i s'

/-- The words of an opcode-table row presented as the next request (notes/assumptions/4.md, 5.md). -/
def State.withFetchWord (s : State) (nbits w : Nat) : State :=
  s.present (presentedRequest (tableWords nbits w))

end Sys2Proof.Machine
end

