-- ==== Sys2Proof/Safety.lean ====
section
/-! DEFINITION. Safety.lean: the words claims about CODEC are stated in: which request fields an operation uses, what a
well-formed packet, frame and response are, the invariant of a step, the bit-serial reading of the checksum, and the
trace of a run. No operation of the machine uses any of these. -/

namespace Sys2Proof.Machine

/-! ## Requests (R60, R62) -/

def usesName : Op → Bool
  | .resolve | .build | .encodeCommand => true
  | .crc | .seqNext | .chunk => false

def usesDur : Op → Bool
  | .build | .encodeCommand => true
  | .resolve | .crc | .seqNext | .chunk => false

def usesSeqv : Op → Bool
  | .build => true
  | .resolve | .crc | .seqNext | .chunk | .encodeCommand => false

def usesData : Op → Bool
  | .crc | .chunk => true
  | .resolve | .build | .seqNext | .encodeCommand => false

/-- Two requests agree on every field the operation uses (R60's last column). -/
def agreeOn (op : Op) (r r' : Request) : Prop :=
  r.hdr = r'.hdr ∧ (usesName op = true → r.name = r'.name) ∧ (usesDur op = true → r.dur = r'.dur) ∧
    (usesSeqv op = true → r.seqv = r'.seqv) ∧ (usesData op = true → r.data = r'.data)

/-- The name is one of the two this hardware's catalog registers (R101). -/
def registered (name : CommandName) : Bool := decide (name = Config.nameBeep) || decide (name = Config.nameFlash)

/-- An instruction that draws a sequence number: SEQ_NEXT, and ENCODE_COMMAND for a name that resolves (R24, R173). -/
def draws : Instr → Bool
  | .seqNext | .beep _ | .flash _ => true
  | .encodeCommand name _ => registered name
  | .resolve _ | .crc _ | .build _ _ _ | .chunk _ => false
  | .stFull _ _ _ | .stTerm1 _ | .stTerm2 _ _ | .stTerm3 _ _ _ => false

/-- An event that is a sequence draw (R173). -/
def isDraw : Event → Bool
  | .reset _ => false
  | .request r =>
    match decodeRequest r with
    | .ok i => draws i
    | .error _ => false

/-- CODEC refuses the request: its header is illegal, or its `DATA` is over-long for CRC or CHUNK (R235). -/
def isRefused (r : Request) : Bool :=
  match headerOp r.hdr with
  | none => true
  | some op => usesData op && decide (Config.hw.maxDataLen < r.data.length)

/-- The request names a command that the catalog does not register (R232). -/
def namesUnknown (r : Request) : Bool :=
  match headerOp r.hdr with
  | none => false
  | some op => usesName op && !registered r.name

/-- The result has the shape R61 gives the operation. -/
def fitsOp : Op → Result → Bool
  | .resolve, .spec _ _ => true
  | .crc, .crc _ => true
  | .build, .packet _ => true
  | .seqNext, .seqn _ => true
  | .chunk, .frame _ => true
  | .encodeCommand, .frame _ => true
  | _, _ => false

/-! ## Packets and frames -/

/-- A RawPacket of this hardware: R67's layout with an assigned opcode (R73) and the checksum invariant of R143. -/
def packetWf (pkt : Bytes) : Prop :=
  pkt.length = 12 + pktPayloadLength pkt ∧ byteAt pkt 0 = Config.SYNC ∧ pktFooter pkt = Config.FOOTER ∧
    (pktOpcode pkt = Config.OPC_BEEP ∨ pktOpcode pkt = Config.OPC_FLASH) ∧ pktChecksum pkt = checksum (pkt.drop 5)

/-- A TransportFrame that CODEC may emit: full chunks, and at most one terminal chunk, which is the last and whose
padding is 0x00 (R70, R190). Status 0x07 never occurs. -/
def frameWf : Bytes → Bool
  | [] => true
  | status :: _ :: d1 :: d2 :: rest =>
    if status = Config.ST_FULL then frameWf rest
    else if status = Config.ST_TERM1 then decide (d1 = 0x00#8 ∧ d2 = 0x00#8 ∧ rest = [])
    else if status = Config.ST_TERM2 then decide (d2 = 0x00#8 ∧ rest = [])
    else false
  | _ => false

/-- The raw bytes read back from a frame: the first `n` data bytes of each chunk (R194). -/
def recover : Bytes → Bytes
  | status :: d0 :: d1 :: d2 :: rest => [d0, d1, d2].take (validBytes status) ++ recover rest
  | _ => []

/-! ## Responses and the invariant of a step -/

/-- A result this hardware may give, as its operation's rule says (R61). -/
def resultWf : Result → Prop
  | .spec opc shape => (opc = Config.OPC_BEEP ∨ opc = Config.OPC_FLASH) ∧ shape = Config.SHAPE_DUR16
  | .crc _ => True
  | .packet pkt => packetWf pkt
  | .seqn _ => True
  | .frame f => frameWf f = true

/-- A response this hardware may give: a result exactly when the status is OK (R61), and no status but OK, UnknownCommand
and ReqRefused (R231, R233, R234). -/
def responseWf (r : Response) : Prop :=
  match r.result with
  | some result => r.status = .ok ∧ resultWf result
  | none => r.status = .unknownCommand ∨ r.status = .reqRefused

/-- What stands at the response port is a response CODEC may give. -/
def Inv (s : State) : Prop := ∀ r, s.response = some r → responseWf r

/-! ## The checksum, one message bit at a time (R43) -/

/-- A byte's bits, bit 7 first. -/
def byteBits (b : Byte) : List Bool :=
  [b.getLsbD 7, b.getLsbD 6, b.getLsbD 5, b.getLsbD 4, b.getLsbD 3, b.getLsbD 2, b.getLsbD 1, b.getLsbD 0]

/-- A message's bits in the order the checksum consumes them: byte 0 first, bit 7 first (R43). -/
def messageBits (bs : Bytes) : List Bool := bs.flatMap byteBits

/-- One step of the serial shift register: the polynomial is applied when bit 31 differs from the message bit. -/
def serialStep (a : Word) (bit : Bool) : Word :=
  if a.getLsbD 31 != bit then (a <<< 1) ^^^ Config.POLY else a <<< 1

/-! ## Runs -/

/-- The first `k` steps: each event accepted, with what then stands at the response port, and the state at the end. -/
def trace : Nat → State → Option (List (Event × Option Response) × State)
  | 0, s => some ([], s)
  | k + 1, s =>
    match fetch s with
    | none => trace k s
    | some (e, _) =>
      match step s with
      | .next t => (trace k t).map (fun p => ((e, t.response) :: p.1, p.2))
      | .fault _ => none
      | .refused _ => none

/-- The sequence number a draw's response hands out: SEQ_NEXT returns it, ENCODE_COMMAND embeds it in its packet (R173). -/
def handedOut : Response → Option Half
  | ⟨.ok, some (.seqn v)⟩ => some v
  | ⟨.ok, some (.frame f)⟩ => some (pktSeq (recover f))
  | _ => none

/-- `SEQ` as the trace alone tells it, before the wrap: `start`, one more for each draw, and 0 again at each reset (R173, R260). -/
def drawsSinceReset (start : Nat) (tr : List (Event × Option Response)) : Nat :=
  tr.foldl (fun k x =>
    match x.1 with
    | .reset _ => 0
    | .request r => if isDraw (.request r) then k + 1 else k) start

/-- The number handed out by one accepted event of a trace, if the event is a draw. -/
def drawn : Event × Option Response → Option Half
  | (e, some r) => if isDraw e then handedOut r else none
  | (_, none) => none

end Sys2Proof.Machine
end

