-- ==== Sys2Proof/WellFormed.lean ====
section
/-! DEFINITION. WellFormed.lean: which instructions are within the operand bounds of 30_encoding.md R60. -/

namespace Sys2Proof

/-- The bound R60 puts on operands: `DATA` has length 0 .. `MAX_DATA_LEN` (R45, R64). Every other operand is legal at
every value its width admits, and a name may have any length (R60, D4). -/
def Instr.wellFormed (p : Params) : Instr → Bool
  | .resolve _ => true
  | .crc data => decide (data.length ≤ p.maxDataLen)
  | .build _ _ _ => true
  | .seqNext => true
  | .chunk data => decide (data.length ≤ p.maxDataLen)
  | .encodeCommand _ _ => true
  | .beep _ => true
  | .flash _ => true
  | .stFull _ _ _ => true
  | .stTerm1 _ => true
  | .stTerm2 _ _ => true
  | .stTerm3 _ _ _ => true

end Sys2Proof
end

