-- ==== Sys2Proof/Certificates/Slice0/Obligations.lean ====
section
/-! DEFINITION. Certificates/Slice0/Obligations.lean: the statements for the provers, from the numbered rules of spec/.
A statement about `exec` or `step` is about this hardware (`Config.hw`), whose `DURATION_BYTE_ORDER` and `MAX_DATA_LEN` are
open, so it holds for either order and every legal bound. A statement about the meanings under a configuration `p` holds
for extended catalogs too. -/

open Sys2Proof Sys2Proof.Machine

/-! ## Configuration and catalog -/

/-- R104 and R8 for this hardware: its configuration is legal and its `CATALOG` is exactly the two entries of R101, both
with two payload bytes. -/
def Obligations.HardwareCatalogIsBeepAndFlash : Prop :=
  Config.hw.Legal ∧
    (catalog Config.hw).map (fun e => (e.name, e.opcode, e.shape)) =
      [(['b', 'e', 'e', 'p'], 0x0100#16, 0x01#8), (['f', 'l', 'a', 's', 'h'], 0x0202#16, 0x01#8)] ∧
    (∀ e ∈ catalog Config.hw, ∀ d : Half, e.encoder d = encDur16 Config.durationByteOrder d ∧ (e.encoder d).length = 2)

/-- R105: under any legal configuration, `lookup` returns the entry of that exact name, and none if no entry has it. -/
def Obligations.LookupReturnsTheEntryOfThatName : Prop :=
  ∀ (p : Params), p.Legal → ∀ (name : CommandName),
    (∀ e : CommandSpec, lookup (catalog p) name = some e ↔ e ∈ catalog p ∧ e.name = name) ∧
    (lookup (catalog p) name = none ↔ ∀ e ∈ catalog p, e.name ≠ name)

/-- R102: the DUR16 payload is the duration's two bytes, most significant first under BE and last under LE. -/
def Obligations.DurationPayloadFollowsByteOrder : Prop :=
  ∀ d : Half,
    (encDur16 .BE d).map BitVec.toNat = [d.toNat / 256, d.toNat % 256] ∧
    (encDur16 .LE d).map BitVec.toNat = [d.toNat % 256, d.toNat / 256]

/-- R103: a payload of up to 255 bytes is accepted as it is, and a longer one raises PayloadTooLarge. -/
def Obligations.PayloadAbove255BytesIsTooLarge : Prop :=
  ∀ (e : CommandSpec) (d : Half),
    ((e.encoder d).length ≤ 255 → encodePayload e d = .ok (e.encoder d)) ∧
    (255 < (e.encoder d).length → encodePayload e d = .error .payloadTooLarge)

/-- R100: RESOLVE answers the opcode and the shape, or UnknownCommand, and changes nothing but the response port. This is said
for the catalog of R101, and under every configuration, where an entry is answered however long its payload would be: the
payload encoder is not run. -/
def Obligations.ResolveAnswersOpcodeAndShape : Prop :=
  (∀ s : State,
    exec (.resolve ['b', 'e', 'e', 'p']) s =
      .next { s with response := some ⟨.ok, some (.spec 0x0100#16 0x01#8)⟩ } ∧
    exec (.resolve ['f', 'l', 'a', 's', 'h']) s =
      .next { s with response := some ⟨.ok, some (.spec 0x0202#16 0x01#8)⟩ } ∧
    ∀ name : CommandName, name ≠ ['b', 'e', 'e', 'p'] → name ≠ ['f', 'l', 'a', 's', 'h'] →
      exec (.resolve name) s = .next { s with response := some ⟨.unknownCommand, none⟩ }) ∧
    (∀ (p : Params) (name : CommandName) (s : State),
      (∀ e, lookup (catalog p) name = some e →
        resolveIn p name s = .next { s with response := some ⟨.ok, some (.spec e.opcode e.shape)⟩ }) ∧
      (lookup (catalog p) name = none →
        resolveIn p name s = .next { s with response := some ⟨.unknownCommand, none⟩ }))

/-! ## Checksum -/

/-- R123 (a) to (e). -/
def Obligations.ChecksumHasTheListedProperties : Prop :=
  checksum [] = 0xFFFFFFFF#32 ∧
    (∀ a b : Bytes, checksum (a ++ b) = b.foldl crcByte (checksum a)) ∧
    crcByte 0x00000000#32 0x01#8 = 0x04C11DB7#32 ∧
    checksum [0xFF#8] = 0xFFFFFF00#32 ∧
    (∃ a b : Byte, checksum [a, b] ≠ checksum [b, a]) ∧ (∃ a b : Byte, checksum [a] ≠ checksum [b])

/-- R43: the byte-wise algorithm of R120 is the serial one that takes the message's bits one at a time, byte 0 first and bit 7
of each byte first. -/
def Obligations.ChecksumIsTheSerialBitRegister : Prop :=
  ∀ bs : Bytes, checksum bs = (messageBits bs).foldl serialStep 0xFFFFFFFF#32

/-- From R120: no two messages that differ in one byte have the same checksum. -/
def Obligations.ChecksumDetectsAnyChangedByte : Prop :=
  ∀ (a c : Bytes) (x y : Byte), x ≠ y → checksum (a ++ x :: c) ≠ checksum (a ++ y :: c)

/-- R121: CRC answers the checksum of its `DATA`, and ReqRefused when `DATA` is over-long; `SEQ` is untouched. -/
def Obligations.CrcAnswersChecksumOfData : Prop :=
  ∀ (data : Bytes) (s : State),
    (data.length ≤ Config.hw.maxDataLen →
      exec (.crc data) s =
        .next { s with response := some ⟨.ok, some (.crc (data.foldl crcByte 0xFFFFFFFF#32))⟩ }) ∧
    (Config.hw.maxDataLen < data.length →
      exec (.crc data) s = .next { s with response := some ⟨.reqRefused, none⟩ })

/-! ## Packet Builder -/

/-- R140, R67: the fields read back from a laid-out packet are the values it was laid out from, and its checksum is that of
bytes 5..end (read back as R69 says). -/
def Obligations.PacketFieldsReadBack : Prop :=
  ∀ (seq opc : Half) (payload : Bytes), payload.length ≤ 255 →
    let pkt := layout seq opc payload
    pkt.length = 12 + payload.length ∧ byteAt pkt 0 = 0x62#8 ∧ pktSeq pkt = seq ∧ pktOpcode pkt = opc ∧
      pktPayloadLength pkt = payload.length ∧ pktPayload pkt = payload ∧ pktFooter pkt = 0x2323#16 ∧
      pktChecksum pkt = checksum (pkt.drop 5)

/-- R141 for this hardware's catalog: BUILD answers the 14-byte packet with the supplied sequence value, or UnknownCommand; it
changes nothing but the response port. The duration's bytes are in the open order. -/
def Obligations.BuildAnswersThePacketBytes : Prop :=
  ∀ (dur seqv : Half) (s : State),
    (∀ name opc,
      (name, opc) = (['b', 'e', 'e', 'p'], 0x0100#16) ∨ (name, opc) = (['f', 'l', 'a', 's', 'h'], 0x0202#16) →
      let body : Bytes :=
        [seqv.extractLsb' 8 8, seqv.extractLsb' 0 8, opc.extractLsb' 8 8, opc.extractLsb' 0 8, 0x02#8] ++
          encDur16 Config.durationByteOrder dur ++ [0x23#8, 0x23#8]
      exec (.build name dur seqv) s =
        .next { s with response := some ⟨.ok, some (.packet ([0x62#8] ++ be32 (checksum body) ++ body))⟩ }) ∧
    ∀ name : CommandName, name ≠ ['b', 'e', 'e', 'p'] → name ≠ ['f', 'l', 'a', 's', 'h'] →
      exec (.build name dur seqv) s = .next { s with response := some ⟨.unknownCommand, none⟩ }

/-- R142 (and the bounds of R68): the layout of any packet BUILD returns, under any configuration. -/
def Obligations.BuiltPacketKeepsTheLayout : Prop :=
  ∀ (p : Params) (name : CommandName) (e : CommandSpec) (dur seqv : Half) (s t : State) (pkt : Bytes),
    lookup (catalog p) name = some e → buildIn p name dur seqv s = .next t →
    t.response = some ⟨.ok, some (.packet pkt)⟩ →
    let payload := e.encoder dur
    let len := payload.length
    pkt.length = 12 + len ∧ 12 ≤ pkt.length ∧ pkt.length ≤ 267 ∧ byteAt pkt 0 = 0x62#8 ∧
      slice pkt (10 + len) (11 + len) = [0x23#8, 0x23#8] ∧ slice pkt 5 6 = be16 seqv ∧
      slice pkt 7 8 = be16 e.opcode ∧ (byteAt pkt 9).toNat = len ∧ slice pkt 10 (9 + len) = payload

/-- R143: the big-endian value of bytes 1 to 4 of any packet BUILD returns is the checksum of bytes 5 to 11+L. -/
def Obligations.BuiltPacketKeepsTheChecksum : Prop :=
  ∀ (p : Params) (name : CommandName) (dur seqv : Half) (s t : State) (pkt : Bytes),
    buildIn p name dur seqv s = .next t → t.response = some ⟨.ok, some (.packet pkt)⟩ →
    slice pkt 1 4 = be32 (checksum (slice pkt 5 (11 + (byteAt pkt 9).toNat)))

/-- R145 with the order of R236: whatever BUILD answers, only the response port changes; an unregistered name is
UnknownCommand whatever the payload would be; a registered one is PayloadTooLarge exactly above 255 bytes. -/
def Obligations.BuildErrorsChangeNoState : Prop :=
  ∀ (p : Params) (name : CommandName) (dur seqv : Half) (s : State),
    ∃ r : Response, buildIn p name dur seqv s = .next { s with response := some r } ∧
      (lookup (catalog p) name = none → r = ⟨.unknownCommand, none⟩) ∧
      (∀ e, lookup (catalog p) name = some e → 255 < (e.encoder dur).length → r = ⟨.payloadTooLarge, none⟩) ∧
      (∀ e, lookup (catalog p) name = some e → (e.encoder dur).length ≤ 255 →
        r = ⟨.ok, some (.packet (layout seqv e.opcode (e.encoder dur)))⟩)

/-! ## Sequence Generator -/

/-- R170 and R172: SEQ_NEXT hands out `(SEQ + 1) mod 2^16`, leaves it in `SEQ`, and changes nothing else but the response
port. -/
def Obligations.SeqNextHandsOutTheNextNumber : Prop :=
  ∀ s : State, ∃ v : Half, v.toNat = (s.seq.toNat + 1) % 65536 ∧
    exec .seqNext s = .next { s with seq := v, response := some ⟨.ok, some (.seqn v)⟩ }

/-- R173, with any other requests among the draws and under any arbitration: as long as no reset is presented, from `SEQ` = 0
the k-th draw returns, or embeds in its packet, `k mod 2^16`, and `SEQ` ends at the number of draws mod 2^16. Streams that
hold a later reset are DrawsCountFromTheLastReset's. -/
def Obligations.SequentialDrawsCountFromOne : Prop :=
  ∀ (n : Nat) (s : State), s.seq = 0x0000#16 →
    (∀ stream ∈ s.requesters, ∀ e ∈ stream, ∃ r, e = Event.request r) →
    ∃ tr t, trace n s = some (tr, t) ∧
      (tr.filterMap drawn).map BitVec.toNat =
        (List.range (tr.countP (fun x => isDraw x.1))).map (fun k => (k + 1) % 65536) ∧
      t.seq.toNat = tr.countP (fun x => isDraw x.1) % 65536

/-- R174: N requesters each present one draw, N ≤ 65535. Under every arbitration (`grants` is any list) they receive exactly
the values (s+1) to (s+N) mod 2^16 with no duplicates, and each of them is the one served first under some arbitration. That
a list of numbers in State is the arbitration, and how it picks, is the model's choice (notes/assumptions/8.md). -/
def Obligations.ConcurrentDrawsReceiveDistinctNumbers : Prop :=
  ∀ (s : State) (rs : List Request), s.requesters = rs.map (fun r => [Event.request r]) →
    (∀ r ∈ rs, isDraw (.request r) = true) → rs.length ≤ 65535 →
    (∃ tr t, trace rs.length s = some (tr, t) ∧ tr.length = rs.length ∧ (tr.filterMap drawn).length = rs.length ∧
      (tr.filterMap drawn).Nodup ∧
      (∀ v : Half, v ∈ tr.filterMap drawn ↔ ∃ k, k < rs.length ∧ v.toNat = (s.seq.toNat + k + 1) % 65536) ∧
      t.seq.toNat = (s.seq.toNat + rs.length) % 65536) ∧
    (∀ i : Nat, (h : i < rs.length) → ∃ g : List Nat,
      fetch { s with grants := g } =
        some (.request rs[i], { s with requesters := s.requesters.set i [], grants := g.tail }))

/-- R173 (with R260) for every run, resets among what is presented: each draw returns, or embeds in its packet, one more than the
number of draws since the last reset, mod 2^16, counted from `SEQ` where no reset has come yet; and `SEQ` ends at that
number of draws mod 2^16. -/
def Obligations.DrawsCountFromTheLastReset : Prop :=
  ∀ (n : Nat) (s : State), ∃ tr t, trace n s = some (tr, t) ∧
    (∀ before x after, tr = before ++ x :: after → isDraw x.1 = true →
      ∃ v, drawn x = some v ∧ v.toNat = (drawsSinceReset s.seq.toNat before + 1) % 65536) ∧
    t.seq.toNat = drawsSinceReset s.seq.toNat tr % 65536

/-- R174's last sentences: which requester receives which value is free. For every order in which N requesters, each with one
draw, could be served, some arbitration serves them in that order, and then the k-th of the order receives (s+k) mod 2^16.
How a list of choices picks is the model's (notes/assumptions/8.md). -/
def Obligations.AnyRequesterMayReceiveAnyNumber : Prop :=
  ∀ (s : State) (rs : List Request) (order : List Nat), s.requesters = rs.map (fun r => [Event.request r]) →
    (∀ r ∈ rs, isDraw (.request r) = true) → order.Perm (List.range rs.length) →
    ∃ g tr t, trace rs.length { s with grants := g } = some (tr, t) ∧ tr.length = rs.length ∧
      ∀ (k i : Nat), order[k]? = some i → ∃ r resp v, rs[i]? = some r ∧ tr[k]? = some (.request r, resp) ∧
        drawn (.request r, resp) = some v ∧ v.toNat = (s.seq.toNat + k + 1) % 65536

/-! ## Transport Chunk Encoder -/

/-- R191: CHUNK answers the frame of its `DATA`, and ReqRefused when `DATA` is over-long; nothing else changes. -/
def Obligations.ChunkAnswersTheFrame : Prop :=
  ∀ (data : Bytes) (s : State),
    (data.length ≤ Config.hw.maxDataLen →
      exec (.chunk data) s = .next { s with response := some ⟨.ok, some (.frame (chunk data))⟩ }) ∧
    (Config.hw.maxDataLen < data.length →
      exec (.chunk data) s = .next { s with response := some ⟨.reqRefused, none⟩ })

/-- R192: the frame of `bs` is `4 · ceil(len/3)` bytes; of a RawPacket with payload length L, `4 · ceil((12+L)/3)`, which is
20 for L = 2 and 356 for L = 255. -/
def Obligations.FrameLengthLaw : Prop :=
  (∀ bs : Bytes, (chunk bs).length = 4 * ((bs.length + 2) / 3)) ∧
    (∀ (seq opc : Half) (payload : Bytes), payload.length ≤ 255 →
      (chunk (layout seq opc payload)).length = 4 * ((12 + payload.length + 2) / 3) ∧
      (payload.length = 2 → (chunk (layout seq opc payload)).length = 20) ∧
      (payload.length = 255 → (chunk (layout seq opc payload)).length = 356))

/-- R44: chunk k occupies frame bytes 4k to 4k+3, in the order status, d0, d1, d2; its data bytes are raw bytes 3k, 3k+1,
3k+2, or 0x00 where the raw input ends; its status is 0x04, 0x06 or 0x05 as three or more, two or one bytes remain (R190). -/
def Obligations.ChunkBytesStandInIndexOrder : Prop :=
  ∀ (bs : Bytes) (k : Nat), 3 * k < bs.length →
    ((chunk bs).drop (4 * k)).take 4 =
      [if 3 ≤ bs.length - 3 * k then 0x04#8 else if bs.length - 3 * k = 2 then 0x06#8 else 0x05#8,
       bs.getD (3 * k) 0x00#8, bs.getD (3 * k + 1) 0x00#8, bs.getD (3 * k + 2) 0x00#8]

/-- R193: no chunk carries 0x07; in the frame of a nonzero multiple of three bytes every chunk, the last one too, carries 0x04;
in any other frame only the last chunk is terminal, 0x05 or 0x06. -/
def Obligations.MultipleOfThreeHasNoTerminalChunk : Prop :=
  ∀ (bs : Bytes) (k : Nat), 4 * k < (chunk bs).length →
    let status := byteAt (chunk bs) (4 * k)
    status ≠ 0x07#8 ∧
      (bs.length % 3 = 0 → status = 0x04#8) ∧
      (bs.length % 3 ≠ 0 → 4 * (k + 1) < (chunk bs).length → status = 0x04#8) ∧
      (bs.length % 3 ≠ 0 → 4 * (k + 1) = (chunk bs).length → status = 0x05#8 ∨ status = 0x06#8)

/-- R194: an empty input gives an empty frame, and from any frame the raw bytes are recovered by reading the valid data bytes
of each chunk, of which R70 gives each status its number. -/
def Obligations.RawBytesAreRecoveredFromTheFrame : Prop :=
  (validBytes 0x04#8 = 3 ∧ validBytes 0x05#8 = 1 ∧ validBytes 0x06#8 = 2 ∧ validBytes 0x07#8 = 3) ∧
    chunk [] = [] ∧ ∀ bs : Bytes, recover (chunk bs) = bs

/-- R70's emitted statuses. That an opcode-table row ST_FULL, ST_TERM1 or ST_TERM2 is read as the emission of its one chunk,
answered as CHUNK answers the chunk's valid bytes, is the model's choice (notes/assumptions/3.md). -/
def Obligations.StatusRowsEmitOneChunk : Prop :=
  ∀ (d0 d1 d2 : Byte) (s : State),
    exec (.stFull d0 d1 d2) s = .next { s with response := some ⟨.ok, some (.frame [0x04#8, d0, d1, d2])⟩ } ∧
    exec (.stTerm1 d0) s = .next { s with response := some ⟨.ok, some (.frame [0x05#8, d0, 0x00#8, 0x00#8])⟩ } ∧
    exec (.stTerm2 d0 d1) s = .next { s with response := some ⟨.ok, some (.frame [0x06#8, d0, d1, 0x00#8])⟩ } ∧
    exec (.stFull d0 d1 d2) s = exec (.chunk [d0, d1, d2]) s ∧ exec (.stTerm1 d0) s = exec (.chunk [d0]) s ∧
    exec (.stTerm2 d0 d1) s = exec (.chunk [d0, d1]) s

/-- R70, R71: the reserved status 0x07. Its row stops (the form of the stop is the model's), no request stands for it, and no
frame that any instruction answers holds it as a status byte. -/
def Obligations.ReservedStatusIsNeverEmitted : Prop :=
  (∀ (d0 d1 d2 : Byte) (s : State), exec (.stTerm3 d0 d1 d2) s = .refused .reservedChunkStatus) ∧
    (∀ (r : Request) (d0 d1 d2 : Byte), decodeRequest r ≠ .ok (.stTerm3 d0 d1 d2)) ∧
    (∀ (i : Instr) (s t : State) (f : Bytes) (k : Nat), exec i s = .next t →
      t.response = some ⟨.ok, some (.frame f)⟩ → 4 * k < f.length →
      byteAt f (4 * k) = 0x04#8 ∨ byteAt f (4 * k) = 0x05#8 ∨ byteAt f (4 * k) = 0x06#8)

/-! ## Pipeline -/

/-- R210 and R211 under any configuration: an unknown name leaves `SEQ` unchanged; a name that resolves advances it by one,
also when the payload is then too large; otherwise the frame is that of the packet with the number drawn. -/
def Obligations.EncodeCommandResolvesThenDrawsThenEncodes : Prop :=
  ∀ (p : Params) (name : CommandName) (dur : Half) (s : State),
    ∃ v : Half, v.toNat = (s.seq.toNat + 1) % 65536 ∧
      (lookup (catalog p) name = none →
        encodeCommandIn p name dur s = .next { s with response := some ⟨.unknownCommand, none⟩ }) ∧
      (∀ e, lookup (catalog p) name = some e → 255 < (e.encoder dur).length →
        encodeCommandIn p name dur s = .next { s with seq := v, response := some ⟨.payloadTooLarge, none⟩ }) ∧
      (∀ e, lookup (catalog p) name = some e → (e.encoder dur).length ≤ 255 →
        encodeCommandIn p name dur s =
          .next { s with
            seq := v, response := some ⟨.ok, some (.frame (chunk (layout v e.opcode (e.encoder dur))))⟩ })

/-- R210 for this hardware's catalog: for beep and flash, and so for BEEP and FLASH, the 20 bytes of the frame and the number
drawn; for any other name UnknownCommand with `SEQ` unchanged. The duration's bytes d0, d1 are in the open order. -/
def Obligations.EncodeCommandAnswersTheFrameBytes : Prop :=
  ∀ (dur : Half) (s : State), ∃ v : Half, v.toNat = (s.seq.toNat + 1) % 65536 ∧
    (∀ name opc i,
      (name, opc, i) = (['b', 'e', 'e', 'p'], 0x0100#16, Instr.beep dur) ∨
        (name, opc, i) = (['f', 'l', 'a', 's', 'h'], 0x0202#16, Instr.flash dur) →
      ∃ d0 d1 : Byte, encDur16 Config.durationByteOrder dur = [d0, d1] ∧
        let c := checksum [v.extractLsb' 8 8, v.extractLsb' 0 8, opc.extractLsb' 8 8, opc.extractLsb' 0 8, 0x02#8,
          d0, d1, 0x23#8, 0x23#8]
        let t := { s with
          seq := v
          response := some ⟨.ok, some (.frame
            [0x04#8, 0x62#8, c.extractLsb' 24 8, c.extractLsb' 16 8,
             0x04#8, c.extractLsb' 8 8, c.extractLsb' 0 8, v.extractLsb' 8 8,
             0x04#8, v.extractLsb' 0 8, opc.extractLsb' 8 8, opc.extractLsb' 0 8,
             0x04#8, 0x02#8, d0, d1,
             0x06#8, 0x23#8, 0x23#8, 0x00#8])⟩ }
        exec (.encodeCommand name dur) s = .next t ∧ exec i s = .next t) ∧
    ∀ name : CommandName, name ≠ ['b', 'e', 'e', 'p'] → name ≠ ['f', 'l', 'a', 's', 'h'] →
      exec (.encodeCommand name dur) s = .next { s with response := some ⟨.unknownCommand, none⟩ }

/-- R213 under any legal configuration: where BUILD with the next number returns the packet `pkt`, ENCODE_COMMAND returns
`chunk(pkt)` and leaves `SEQ` at that number; and SEQ_NEXT, BUILD and CHUNK performed in turn end in the same state. -/
def Obligations.EncodeCommandIsDrawThenBuildThenChunk : Prop :=
  ∀ (p : Params) (name : CommandName) (dur : Half) (s t : State) (pkt : Bytes), p.Legal →
    buildIn p name dur (s.seq + 1#16) s = .next t → t.response = some ⟨.ok, some (.packet pkt)⟩ →
    ∃ u, encodeCommandIn p name dur s = .next u ∧
      u = { s with seq := s.seq + 1#16, response := some ⟨.ok, some (.frame (chunk pkt))⟩ } ∧
      ∃ s1 s2, exec .seqNext s = .next s1 ∧ s1.response = some ⟨.ok, some (.seqn s1.seq)⟩ ∧
        buildIn p name dur s1.seq s1 = .next s2 ∧ s2.response = some ⟨.ok, some (.packet pkt)⟩ ∧
        chunkIn p pkt s2 = .next u

/-- R75: an omitted duration is 0, and BEEP and FLASH are ENCODE_COMMAND of their names, as lines and as instructions. -/
def Obligations.PseudoInstructionsAreEncodeCommand : Prop :=
  (∀ name, assemble (.encodeCommand name none) = assemble (.encodeCommand name (some 0x0000#16))) ∧
    (∀ d, assemble (.beep d) = assemble (.encodeCommand ['b', 'e', 'e', 'p'] (some (d.getD 0x0000#16)))) ∧
    (∀ d, assemble (.flash d) = assemble (.encodeCommand ['f', 'l', 'a', 's', 'h'] (some (d.getD 0x0000#16)))) ∧
    (∀ name v, assemble (.build name none v) = assemble (.build name (some 0x0000#16) v)) ∧
    (∀ d s, exec (.beep d) s = exec (.encodeCommand ['b', 'e', 'e', 'p'] d) s) ∧
    (∀ d s, exec (.flash d) s = exec (.encodeCommand ['f', 'l', 'a', 's', 'h'] d) s)

/-- The whole pipeline read backwards, under any configuration: from the frame of an ENCODE_COMMAND that succeeds, the packet
is recovered, and its sequence field is the new `SEQ`, one more than the old; its opcode and payload are the catalog
entry's; and its checksum is right (R142, R143, R194, R210). -/
def Obligations.FrameCarriesTheNumberOpcodeAndPayload : Prop :=
  ∀ (p : Params) (name : CommandName) (e : CommandSpec) (dur : Half) (s : State),
    lookup (catalog p) name = some e → (e.encoder dur).length ≤ 255 →
    ∃ t f, encodeCommandIn p name dur s = .next t ∧ t.response = some ⟨.ok, some (.frame f)⟩ ∧
      t.seq.toNat = (s.seq.toNat + 1) % 65536 ∧ pktSeq (recover f) = t.seq ∧ pktOpcode (recover f) = e.opcode ∧
      pktPayload (recover f) = e.encoder dur ∧ pktFooter (recover f) = 0x2323#16 ∧
      pktChecksum (recover f) = checksum ((recover f).drop 5)

/-! ## Encoding -/

/-- R62's six headers as numbers, with every field of the request arbitrary, decoded; the illegal header 0x16 (R63); and a few
words of the other encodings (R70, R73). That an 8-bit word of the opcode table is read as a header (0x04 is ST_FULL's word
too) and a 16-bit one as an opcode field with duration 0 is the model's choice (notes/assumptions/4.md). -/
def Obligations.SampleWordsDecode : Prop :=
  (∀ (name : CommandName) (dur seqv : Half) (data : Bytes),
    decodeRequest ⟨0x01#8, name, dur, seqv, data⟩ = .ok (.resolve name) ∧
      decodeRequest ⟨0x02#8, name, dur, seqv, data⟩ = .ok (.crc data) ∧
      decodeRequest ⟨0x03#8, name, dur, seqv, data⟩ = .ok (.build name dur seqv) ∧
      decodeRequest ⟨0x04#8, name, dur, seqv, data⟩ = .ok .seqNext ∧
      decodeRequest ⟨0x05#8, name, dur, seqv, data⟩ = .ok (.chunk data) ∧
      decodeRequest ⟨0x06#8, name, dur, seqv, data⟩ = .ok (.encodeCommand name dur) ∧
      decodeRequest ⟨0x16#8, name, dur, seqv, data⟩ = .error (.illegalHeader 0x16#8)) ∧
    decodeTableWord 8 0x04 = some .seqNext ∧ decodeTableWord 16 0x0202 = some (.flash 0x0000#16) ∧
    decode (.chunk 0x06#8 0x23#8 0x24#8 0x00#8) = .ok (.stTerm2 0x23#8 0x24#8)

/-- R60, R62, R66: a request decodes to `i` exactly when its header is that of an operation and it agrees with the encoding of
`i` on the fields that operation uses. -/
def Obligations.RequestDecodesByHeaderAndUsedFields : Prop :=
  ∀ (r : Request) (i : Instr),
    decodeRequest r = .ok i ↔ ∃ (op : Op) (r' : Request), encode i = .request r' ∧ r'.hdr = opHeader op ∧ agreeOn op r r'

/-- Decoding inverts encoding for every instruction, and in the two encodings that leave no field unused the words of an
instruction are unique (R70, R73). -/
def Obligations.DecodeInvertsEncode : Prop :=
  (∀ i : Instr, decode (encode i) = .ok i) ∧
    (∀ (opc dur : Half) (i : Instr), decode (.command opc dur) = .ok i ↔ encode i = .command opc dur) ∧
    (∀ (status d0 d1 d2 : Byte) (i : Instr),
      decode (.chunk status d0 d1 d2) = .ok i ↔ encode i = .chunk status d0 d1 d2)

/-- R63: a request whose `OPSEL` is 0x0 or 0x7-0xF, or whose `HDR[7:4]` is not 0, is answered ReqRefused; no other part of the
state changes but that the request has been accepted. -/
def Obligations.IllegalHeaderIsRefused : Prop :=
  ∀ (s s1 : State) (r : Request), fetch s = some (.request r, s1) →
    (r.hdr.extractLsb' 0 4 = 0x0#4 ∨ 7 ≤ (r.hdr.extractLsb' 0 4).toNat ∨ r.hdr.extractLsb' 4 4 ≠ 0x0#4) →
    step s = .next { s1 with response := some ⟨.reqRefused, none⟩ } ∧ s1.seq = s.seq

/-- R64 (with R68): `MAX_DATA_LEN` is at least 267, so under every legal configuration a packet that BUILD answers, whatever its
payload, is at most 267 bytes and can be checksummed and chunked by request; `DATA` longer than `MAX_DATA_LEN` is refused
with no state change. -/
def Obligations.OverlongDataIsRefused : Prop :=
  (267 ≤ Config.hw.maxDataLen ∧ ∀ p : Params, p.Legal → 267 ≤ p.maxDataLen) ∧
    (∀ (data : Bytes) (s : State), Config.hw.maxDataLen < data.length →
      exec (.crc data) s = .next { s with response := some ⟨.reqRefused, none⟩ } ∧
      exec (.chunk data) s = .next { s with response := some ⟨.reqRefused, none⟩ }) ∧
    (∀ (p : Params) (data : Bytes) (s : State), p.maxDataLen < data.length →
      crcIn p data s = .next { s with response := some ⟨.reqRefused, none⟩ } ∧
      chunkIn p data s = .next { s with response := some ⟨.reqRefused, none⟩ }) ∧
    (∀ (name : CommandName) (dur seqv : Half) (s t u : State) (pkt : Bytes), exec (.build name dur seqv) s = .next t →
      t.response = some ⟨.ok, some (.packet pkt)⟩ →
      exec (.crc pkt) u = .next { u with response := some ⟨.ok, some (.crc (checksum pkt))⟩ } ∧
      exec (.chunk pkt) u = .next { u with response := some ⟨.ok, some (.frame (chunk pkt))⟩ }) ∧
    (∀ (p : Params) (name : CommandName) (dur seqv : Half) (s t u : State) (pkt : Bytes), p.Legal →
      buildIn p name dur seqv s = .next t → t.response = some ⟨.ok, some (.packet pkt)⟩ →
      pkt.length ≤ 267 ∧
      crcIn p pkt u = .next { u with response := some ⟨.ok, some (.crc (checksum pkt))⟩ } ∧
      chunkIn p pkt u = .next { u with response := some ⟨.ok, some (.frame (chunk pkt))⟩ })

/-- R74: every line of the assembler syntax assembles to a request with the header of an operation; a field that the operation
does not use is 0 or empty; and performing the request is performing the line's instruction. -/
def Obligations.LineAssemblesToItsRequest : Prop :=
  ∀ l : Line, ∃ (r : Request) (op : Op), assemble l = some r ∧ r.hdr = opHeader op ∧
    (usesName op = false → r.name = []) ∧ (usesDur op = false → r.dur = 0x0000#16) ∧
    (usesSeqv op = false → r.seqv = 0x0000#16) ∧ (usesData op = false → r.data = []) ∧
    ∀ s : State, exec (operandsOf op r) s = exec (lineInstr l) s

/-! ## Responses, errors and frames -/

/-- R231: the status codes, and the codes that are reserved. No instruction of this hardware answers TransportSendFailed
(R234) or, with this catalog, PayloadTooLarge (R233). -/
def Obligations.StatusCodesAndNeverRaisedKinds : Prop :=
  Status.code .ok = 0x0#4 ∧ Status.code .unknownCommand = 0x1#4 ∧ Status.code .payloadTooLarge = 0x2#4 ∧
    Status.code .transportSendFailed = 0x3#4 ∧ Status.code .reqRefused = 0xF#4 ∧
    (∀ (c : BitVec 4) (st : Status), statusOfCode c = some st ↔ st.code = c) ∧
    (∀ (i : Instr) (s t : State) (r : Response), exec i s = .next t → t.response = some r →
      r.status ≠ .transportSendFailed ∧ r.status ≠ .payloadTooLarge)

/-- R61: a request's result is present exactly when its status is OK, and it has the shape of its operation. -/
def Obligations.ResultPresentExactlyWhenOk : Prop :=
  ∀ (s s1 : State) (r : Request), fetch s = some (.request r, s1) →
    ∃ t resp, step s = .next t ∧ t.response = some resp ∧ (resp.result.isSome = true ↔ resp.status = .ok) ∧
      ∀ result, resp.result = some result → ∃ op, headerOp r.hdr = some op ∧ fitsOp op result = true

/-- R236 with this hardware's catalog (where PayloadTooLarge cannot occur, R233): ReqRefused is checked first, then
UnknownCommand; a request that passes both is answered OK. -/
def Obligations.ErrorsAreCheckedInOrder : Prop :=
  ∀ (s s1 : State) (r : Request), fetch s = some (.request r, s1) →
    ∃ t resp, step s = .next t ∧ t.response = some resp ∧
      resp.status = (if isRefused r then .reqRefused else if namesUnknown r then .unknownCommand else .ok)

/-- R230, R237 for this hardware: an instruction that answers an error has changed nothing but the response port, which carries
the error's status and no result. -/
def Obligations.ErrorsLeaveOnlyTheResponse : Prop :=
  ∀ (i : Instr) (s t : State) (r : Response), exec i s = .next t → t.response = some r → r.status ≠ .ok →
    t = { s with response := some ⟨r.status, none⟩ }

/-- The frame of every instruction (R23, R46): `SEQ` is written by a draw and by nothing else, and a draw adds one mod 2^16. What
the requesters have still to present and the choices of arbitration are not touched. The response port is written by all. -/
def Obligations.OnlyDrawsWriteSeq : Prop :=
  ∀ (i : Instr) (s t : State), exec i s = .next t →
    (draws i = true → t.seq.toNat = (s.seq.toNat + 1) % 65536) ∧ (draws i = false → t.seq = s.seq) ∧
      t.requesters = s.requesters ∧ t.grants = s.grants ∧ t.response.isSome = true

/-- R46: an instruction that draws no number gives the same response and state when it is repeated; one that draws does not. -/
def Obligations.OnlyDrawsAreNotIdempotent : Prop :=
  ∀ (i : Instr) (s t : State), exec i s = .next t →
    (draws i = false → exec i t = .next t) ∧ (draws i = true → exec i t ≠ .next t)

/-- R28, R46: the response of an instruction that draws no number depends on nothing that went before: not on `SEQ`, not on an
earlier response, not on what is presented. -/
def Obligations.PureResponsesDependOnTheRequestAlone : Prop :=
  ∀ (i : Instr) (s s' t t' : State), draws i = false → exec i s = .next t → exec i s' = .next t' →
    t.response = t'.response

/-! ## Steps, arbitration, reset -/

/-- One step: with nothing presented CODEC waits (R22; that its response port then keeps its response is the model's choice,
notes/assumptions/7.md); a request that decodes runs as its instruction, on the state that is left
when the request has been accepted, and sees `SEQ` as every earlier request left it (R47). -/
def Obligations.StepRunsTheDecodedRequest : Prop :=
  (∀ s : State, fetch s = none → step s = .next s) ∧
    (∀ (s s1 : State) (r : Request) (i : Instr), fetch s = some (.request r, s1) → decode (.request r) = .ok i →
      step s = exec i s1 ∧ s1.seq = s.seq ∧ s1.response = s.response)

/-- The model's interface: the words of an opcode-table row are presented as the very next request, by one more requester,
and once it has been accepted nothing else of the state differs (notes/assumptions/4.md, 5.md). -/
def Obligations.FetchWordIsTheNextRequest : Prop :=
  ∀ (s : State) (nbits w : Nat),
    fetch (s.withFetchWord nbits w) =
      some (.request (presentedRequest (tableWords nbits w)), { s with requesters := [] :: s.requesters })

/-- R47, R261: what arbitration accepts is the next event of some requester, and nothing else changes; and any requester that
presents something can be the one, so every order that keeps each requester's own order is a possible one. How a list of choices picks is the model's
(notes/assumptions/8.md). -/
def Obligations.ArbitrationMayChooseAnyRequester : Prop :=
  (∀ (s s1 : State) (e : Event), fetch s = some (e, s1) →
    ∃ i es, s.requesters[i]? = some (e :: es) ∧
      s1 = { s with requesters := s.requesters.set i es, grants := s.grants.tail }) ∧
    (∀ (s : State) (i : Nat) (e : Event) (es : List Event), s.requesters[i]? = some (e :: es) →
      ∃ n, ∀ g, fetch { s with grants := n :: g } =
        some (e, { s with requesters := s.requesters.set i es, grants := g }))

/-- R31, R260: reset and any later reset event leave `SEQ` 0. That the response port carries no response after a reset event
is read from R31 (notes/assumptions/6.md); what is presented stays. -/
def Obligations.ResetZeroesSeq : Prop :=
  State.reset.seq = 0x0000#16 ∧ State.reset.response = none ∧
    ∀ (s s1 : State) (cause : ResetCause), fetch s = some (.reset cause, s1) →
      step s = .next { s1 with seq := 0x0000#16, response := none }

/-- R261, among any number of requesters and whether or not the request decodes: where one requester's next event is a request
and another source's is a reset, some choices of arbitration let the request go first and the reset next, and some the
other way round. A request before the reset sees `SEQ` as it stood, and the reset then leaves 0; one after it sees `SEQ` = 0.
How a list of choices picks is the model's (notes/assumptions/8.md); that a reset empties the response port is read from R31
(notes/assumptions/6.md). -/
def Obligations.ResetFallsBeforeOrAfterARequest : Prop :=
  ∀ (s : State) (a b : Nat) (r : Request) (cause : ResetCause) (es fs : List Event), a ≠ b →
    s.requesters[a]? = some (.request r :: es) → s.requesters[b]? = some (.reset cause :: fs) →
    (∃ n m, ∀ g : List Nat, ∃ t u,
      let accepted : State := { s with requesters := s.requesters.set a es, grants := m :: g }
      step { s with grants := n :: m :: g } = .next t ∧
      (∀ i, decodeRequest r = .ok i → exec i accepted = .next t) ∧
      (∀ why, decodeRequest r = .error why → t = { accepted with response := some ⟨.reqRefused, none⟩ }) ∧
      step t = .next u ∧
      u = { s with seq := 0x0000#16, response := none, requesters := (s.requesters.set a es).set b fs, grants := g }) ∧
    (∃ n m, ∀ g : List Nat, ∃ t u,
      let accepted : State :=
        { s with seq := 0x0000#16, response := none, requesters := (s.requesters.set b fs).set a es, grants := g }
      step { s with grants := n :: m :: g } = .next t ∧
      t = { s with seq := 0x0000#16, response := none, requesters := s.requesters.set b fs, grants := m :: g } ∧
      step t = .next u ∧
      (∀ i, decodeRequest r = .ok i → exec i accepted = .next u) ∧
      (∀ why, decodeRequest r = .error why → u = { accepted with response := some ⟨.reqRefused, none⟩ }))

/-- R272: no step stops, from any state; a step accepts exactly one event while any is presented. That a step with
nothing presented changes nothing is the model's choice (notes/assumptions/7.md). -/
def Obligations.EveryStepCompletes : Prop :=
  ∀ s : State, ∃ t, step s = .next t ∧ t.pending = s.pending - 1 ∧ (s.pending = 0 → t = s)

/-- R47, R272: in as many steps as there are events presented, each is accepted exactly once, in an order that keeps every
requester's own order, and each request among them is answered. That arbitration leaves nobody waiting for ever is the
fairness R272 asks of it, as the model represents it (notes/assumptions/8.md). -/
def Obligations.EveryPresentedEventIsAcceptedOnce : Prop :=
  ∀ s : State, ∃ tr t, trace s.pending s = some (tr, t) ∧ t.pending = 0 ∧
    (tr.map Prod.fst).Perm s.requesters.flatten ∧ (∀ stream ∈ s.requesters, stream.Sublist (tr.map Prod.fst)) ∧
    (∀ r resp, (Event.request r, resp) ∈ tr → resp.isSome = true)

/-- The invariant of a step: whatever step is taken from whatever state, if what stands at the response port is a response CODEC
may give (well-formed packets with a right checksum, frames with no reserved status, a result exactly when OK), so is
what stands there afterwards. -/
def Obligations.StepKeepsResponsesWellFormed : Prop :=
  ∀ s t : State, Inv s → step s = .next t → Inv t

/-- The invariant holds at reset (R31: the response port carries no response). -/
def Obligations.ResetMeetsTheResponseInvariant : Prop :=
  Inv State.reset

/-- From reset, whatever is presented and however it is arbitrated: every response of every run is one CODEC may give. -/
def Obligations.EveryResponseOfARunIsWellFormed : Prop :=
  ∀ (requesters : List (List Event)) (grants : List Nat) (n : Nat),
    ∃ tr t, trace n { State.reset with requesters := requesters, grants := grants } = some (tr, t) ∧
      ∀ e resp, (e, some resp) ∈ tr → responseWf resp
end

