-- ==== Sys2Proof/Laws/State.lean ====
section
/-! SUPPORT. Laws/State.lean: one lemma for each field under each update of State, and the outcomes of the shared answers. -/

namespace Sys2Proof.Machine

@[simp] theorem State.setSeq_seq (s : State) (v : Half) : (s.setSeq v).seq = v := rfl
@[simp] theorem State.setSeq_response (s : State) (v : Half) : (s.setSeq v).response = s.response := rfl
@[simp] theorem State.setSeq_requesters (s : State) (v : Half) : (s.setSeq v).requesters = s.requesters := rfl
@[simp] theorem State.setSeq_grants (s : State) (v : Half) : (s.setSeq v).grants = s.grants := rfl

@[simp] theorem State.setResponse_seq (s : State) (r : Response) : (s.setResponse r).seq = s.seq := rfl
@[simp] theorem State.setResponse_response (s : State) (r : Response) : (s.setResponse r).response = some r := rfl
@[simp] theorem State.setResponse_requesters (s : State) (r : Response) :
    (s.setResponse r).requesters = s.requesters := rfl
@[simp] theorem State.setResponse_grants (s : State) (r : Response) : (s.setResponse r).grants = s.grants := rfl

@[simp] theorem resetBy_seq (c : ResetCause) (s : State) : (resetBy c s).seq = 0x0000#16 := rfl
@[simp] theorem resetBy_response (c : ResetCause) (s : State) : (resetBy c s).response = none := rfl
@[simp] theorem resetBy_requesters (c : ResetCause) (s : State) : (resetBy c s).requesters = s.requesters := rfl
@[simp] theorem resetBy_grants (c : ResetCause) (s : State) : (resetBy c s).grants = s.grants := rfl

@[simp] theorem State.present_seq (s : State) (r : Request) : (s.present r).seq = s.seq := rfl
@[simp] theorem State.present_response (s : State) (r : Request) : (s.present r).response = s.response := rfl
@[simp] theorem State.present_requesters (s : State) (r : Request) :
    (s.present r).requesters = [.request r] :: s.requesters := rfl
@[simp] theorem State.present_grants (s : State) (r : Request) : (s.present r).grants = 0 :: s.grants := rfl

@[simp] theorem draw_fst (s : State) : (draw s).1 = nextSeq s.seq := rfl
@[simp] theorem draw_snd (s : State) : (draw s).2 = s.setSeq (nextSeq s.seq) := rfl

/-- `return r` answers one next state, whose response is r with status OK. -/
theorem respond_eq_next (r : Result) (s t : State) :
    respond r s = .next t ↔ t = s.setResponse ⟨.ok, some r⟩ :=
  ⟨fun h => by injection h with h; exact h.symm, fun h => by rw [h]; rfl⟩

/-- `raise e` answers one next state, whose response is e with no result. -/
theorem raise_eq_next (e : Status) (s t : State) : raise e s = .next t ↔ t = s.setResponse ⟨e, none⟩ :=
  ⟨fun h => by injection h with h; exact h.symm, fun h => by rw [h]; rfl⟩

/-- The number a draw hands out, as a number (R172). -/
theorem nextSeq_toNat (v : Half) : (nextSeq v).toNat = (v.toNat + 1) % 65536 := by
  simp [nextSeq, BitVec.toNat_add]

end Sys2Proof.Machine
end

