-- ==== Sys2Proof/Laws/Arbitration.lean ====
section
/-! SUPPORT. Laws/Arbitration.lean: what `takeFrom` and `fetch` can answer. -/

namespace Sys2Proof.Machine

/-- Whatever the choice, what is taken is the next event of one requester, and only that requester's stream is shorter. -/
theorem takeFrom_some {rs rs' : List (List Event)} {n : Nat} {e : Event} (h : takeFrom rs n = some (e, rs')) :
    ∃ i es, rs[i]? = some (e :: es) ∧ rs' = rs.set i es := by
  induction rs generalizing n e rs' with
  | nil => simp [takeFrom] at h
  | cons l rest ih =>
    have behind : ∀ m q, takeFrom rest m = some q →
        ∃ i es, (l :: rest)[i]? = some (q.1 :: es) ∧ l :: q.2 = (l :: rest).set i es := by
      intro m q hq
      obtain ⟨i, es, hi, hs⟩ := ih (e := q.1) (rs' := q.2) hq
      exact ⟨i + 1, es, by simpa using hi, by simp [hs]⟩
    cases l with
    | nil =>
      simp only [takeFrom] at h
      split at h
      · next q hq => cases h; exact behind _ q hq
      · cases h
    | cons a as =>
      cases n with
      | zero => cases h; exact ⟨0, as, rfl, rfl⟩
      | succ m =>
        simp only [takeFrom] at h
        split at h
        · next q hq => cases h; exact behind _ q hq
        · cases h; exact ⟨0, as, rfl, rfl⟩

/-- Nothing can be taken exactly when nothing is presented. -/
theorem takeFrom_none {rs : List (List Event)} {n : Nat} : takeFrom rs n = none ↔ ∀ l ∈ rs, l = [] := by
  induction rs generalizing n with
  | nil => simp [takeFrom]
  | cons l rest ih =>
    cases l with
    | nil =>
      simp only [takeFrom]
      split
      · next q hq =>
        have : ¬ ∀ l ∈ rest, l = [] := fun hall => by simp [ih.mpr hall] at hq
        simpa using this
      · next hq => simpa using ih.mp hq
    | cons a as =>
      cases n with
      | zero => simp [takeFrom]
      | succ m =>
        simp only [takeFrom]
        split <;> simp

/-- Accepting an event touches neither `SEQ` nor the response port. -/
theorem fetch_some {s s' : State} {e : Event} (h : fetch s = some (e, s')) :
    ∃ rs, takeFrom s.requesters (s.grants.headD 0) = some (e, rs) ∧
      s' = { s with requesters := rs, grants := s.grants.tail } := by
  simp only [fetch] at h
  split at h
  · cases h
  · next q hq => cases h; exact ⟨q.2, hq, rfl⟩

theorem fetch_seq {s s' : State} {e : Event} (h : fetch s = some (e, s')) : s'.seq = s.seq := by
  obtain ⟨_, -, rfl⟩ := fetch_some h; rfl

theorem fetch_response {s s' : State} {e : Event} (h : fetch s = some (e, s')) : s'.response = s.response := by
  obtain ⟨_, -, rfl⟩ := fetch_some h; rfl

/-- Nothing is accepted exactly when nothing is presented. -/
theorem fetch_none {s : State} : fetch s = none ↔ ∀ l ∈ s.requesters, l = [] := by
  rw [← takeFrom_none (n := s.grants.headD 0)]
  simp only [fetch]
  split <;> simp_all

end Sys2Proof.Machine
end

