-- ==== Sys2Proof/Laws/Checksum.lean ====
section
/-! SUPPORT. Laws/Checksum.lean: the rounds are linear over XOR and can be undone; a packet's bytes. -/

namespace Sys2Proof.Machine

/-- A round is linear. -/
theorem crcRound_xor (a b : Word) : crcRound (a ^^^ b) = crcRound a ^^^ crcRound b := by
  have cancel : ∀ x y p : Word, x ^^^ p ^^^ (y ^^^ p) = x ^^^ y := fun x y p => by
    rw [BitVec.xor_assoc, BitVec.xor_comm y p, ← BitVec.xor_assoc p p y]; simp
  unfold crcRound
  rw [BitVec.getLsbD_xor, BitVec.shiftLeft_xor_distrib]
  cases a.getLsbD 31 <;> cases b.getLsbD 31
  · simp
  · simp [BitVec.xor_assoc]
  · simp only [Bool.xor_false, if_true, Bool.false_eq_true, if_false]
    rw [BitVec.xor_assoc, BitVec.xor_assoc, BitVec.xor_comm (b <<< 1)]
  · simp [cancel]

theorem crcRounds_xor (k : Nat) (a b : Word) : crcRounds k (a ^^^ b) = crcRounds k a ^^^ crcRounds k b := by
  induction k generalizing a b with
  | zero => rfl
  | succ k ih => simp only [crcRounds, crcRound_xor, ih]

/-- A packet is the sync byte, the checksum of its body, and its body (R67). -/
theorem layout_eq (seq opc : Half) (payload : Bytes) :
    layout seq opc payload =
      Config.SYNC :: (be32 (checksum (be16 seq ++ be16 opc ++ [BitVec.ofNat 8 payload.length] ++ payload ++
        be16 Config.FOOTER)) ++ (be16 seq ++ be16 opc ++ [BitVec.ofNat 8 payload.length] ++ payload ++
        be16 Config.FOOTER)) := by
  simp [layout, draft, be16]

theorem draft_length (seq opc : Half) (payload : Bytes) : (draft seq opc payload).length = 12 + payload.length := by
  simp [draft, be16]; omega

end Sys2Proof.Machine
end

