-- ==== Sys2Proof/Laws/Chunker.lean ====
section
/-! SUPPORT. Laws/Chunker.lean: reading and well-formedness of a frame, one emitted chunk at a time. -/

namespace Sys2Proof.Machine

@[simp] theorem validBytes_full : validBytes Config.ST_FULL = 3 := rfl

@[simp] theorem validBytes_term1 : validBytes Config.ST_TERM1 = 1 := rfl

@[simp] theorem validBytes_term2 : validBytes Config.ST_TERM2 = 2 := rfl

@[simp] theorem validBytes_term3 : validBytes Config.ST_TERM3 = 3 := rfl

@[simp] theorem recover_emitFull (b0 b1 b2 : Byte) (f : Bytes) :
    recover (emitFull b0 b1 b2 ++ f) = b0 :: b1 :: b2 :: recover f := rfl

@[simp] theorem recover_emitTerm2 (b0 b1 : Byte) : recover (emitTerm2 b0 b1) = [b0, b1] := rfl

@[simp] theorem recover_emitTerm1 (b0 : Byte) : recover (emitTerm1 b0) = [b0] := rfl

@[simp] theorem frameWf_emitFull (b0 b1 b2 : Byte) (f : Bytes) :
    frameWf (emitFull b0 b1 b2 ++ f) = frameWf f := rfl

@[simp] theorem frameWf_emitTerm2 (b0 b1 : Byte) : frameWf (emitTerm2 b0 b1) = true := rfl

@[simp] theorem frameWf_emitTerm1 (b0 : Byte) : frameWf (emitTerm1 b0) = true := rfl

@[simp] theorem length_emitFull (b0 b1 b2 : Byte) : (emitFull b0 b1 b2).length = 4 := rfl

@[simp] theorem length_emitTerm2 (b0 b1 : Byte) : (emitTerm2 b0 b1).length = 4 := rfl

@[simp] theorem length_emitTerm1 (b0 : Byte) : (emitTerm1 b0).length = 4 := rfl

theorem chunk_frameWf (bs : Bytes) : frameWf (chunk bs) = true := by
  induction bs using chunk.induct with
  | case1 b0 b1 b2 rest ih => rw [chunk, frameWf_emitFull, ih]
  | case2 b0 b1 => rfl
  | case3 b0 => rfl
  | case4 => rfl

end Sys2Proof.Machine
end

