-- ==== Sys2Proof/Laws/Decode.lean ====
section
/-! SUPPORT. Laws/Decode.lean: headers and operations. -/

namespace Sys2Proof

@[simp] theorem headerOp_opHeader (op : Op) : headerOp (opHeader op) = some op := by
  cases op <;> decide

theorem opsel_toNat (h : Byte) : (opsel h).toNat = h.toNat % 16 := by
  simp [opsel, BitVec.extractLsb'_toNat]

theorem reservedBits_eq_zero (h : Byte) : reservedBits h = 0x0#4 ↔ h.toNat < 16 := by
  have := h.isLt
  rw [← BitVec.toNat_inj]
  simp [reservedBits, BitVec.extractLsb'_toNat, Nat.shiftRight_eq_div_pow]
  omega

/-- An operation is selected by its own header and by no other (R62, R63). -/
theorem headerOp_eq_some {h : Byte} {op : Op} : headerOp h = some op ↔ h = opHeader op := by
  refine ⟨fun e => ?_, fun e => e ▸ headerOp_opHeader op⟩
  have lt := h.isLt
  apply BitVec.eq_of_toNat_eq
  unfold headerOp at e
  split at e
  · next hr =>
    rw [reservedBits_eq_zero] at hr
    have ho := opsel_toNat h
    split at e <;> cases e <;> simp only [opHeader, BitVec.reduceToNat] <;> omega
  · cases e

/-- A request that decodes has the header of the operation it decodes to, and its operands are the request's. -/
theorem decodeRequest_ok {r : Request} {i : Instr} :
    decodeRequest r = .ok i ↔ ∃ op, r.hdr = opHeader op ∧ i = operandsOf op r := by
  simp only [decodeRequest]
  constructor
  · intro h
    split at h
    · next op ho => cases h; exact ⟨op, headerOp_eq_some.mp ho, rfl⟩
    · cases h
  · rintro ⟨op, ho, rfl⟩
    rw [headerOp_eq_some.mpr ho]

end Sys2Proof
end

