-- ==== Sys2Proof/Laws/Meanings.lean ====
section
/-! SUPPORT. Laws/Meanings.lean: this hardware's catalog, and what each configured meaning can answer. -/

namespace Sys2Proof.Machine

/-- This hardware's lookup: beep, flash, or nothing (R101, R105). -/
theorem lookup_hw (name : CommandName) :
    lookup (catalog Config.hw) name =
      if name = Config.nameBeep then some (beepSpec Config.durationByteOrder)
      else if name = Config.nameFlash then some (flashSpec Config.durationByteOrder) else none := by
  simp only [lookup, catalog, Config.hw, beepSpec, flashSpec, List.find?]
  by_cases h : name = Config.nameBeep
  · simp [h]
  · by_cases h' : name = Config.nameFlash
    · simp [h', show Config.nameBeep ≠ Config.nameFlash by decide]
      intro hb; exact absurd hb (by decide)
    · simp [h, h', Ne.symm h, Ne.symm h']

@[simp] theorem encDur16_length (o : ByteOrder) (d : Half) : (encDur16 o d).length = 2 := rfl

/-- A payload within the bound is accepted as it is (R103). -/
theorem encodePayload_ok {e : CommandSpec} {d : Half} (h : (e.encoder d).length ≤ 255) :
    encodePayload e d = .ok (e.encoder d) := by
  simp [encodePayload, Config.MAX_PAYLOAD, Nat.not_lt.mpr h]

/-- A payload above the bound raises PayloadTooLarge (R103). -/
theorem encodePayload_tooLarge {e : CommandSpec} {d : Half} (h : 255 < (e.encoder d).length) :
    encodePayload e d = .error .payloadTooLarge := by
  simp [encodePayload, Config.MAX_PAYLOAD, h]

/-- What RESOLVE can answer. -/
theorem resolveIn_cases {p : Params} {name : CommandName} {s t : State} (h : resolveIn p name s = .next t) :
    (lookup (catalog p) name = none ∧ t = s.setResponse ⟨.unknownCommand, none⟩) ∨
      ∃ e, lookup (catalog p) name = some e ∧ t = s.setResponse ⟨.ok, some (.spec e.opcode e.shape)⟩ := by
  unfold resolveIn at h
  split at h
  · next hl => exact .inl ⟨hl, (raise_eq_next ..).mp h⟩
  · next e hl => exact .inr ⟨e, hl, (respond_eq_next ..).mp h⟩

/-- What CRC can answer. -/
theorem crcIn_cases {p : Params} {data : Bytes} {s t : State} (h : crcIn p data s = .next t) :
    (p.maxDataLen < data.length ∧ t = s.setResponse ⟨.reqRefused, none⟩) ∨
      (data.length ≤ p.maxDataLen ∧ t = s.setResponse ⟨.ok, some (.crc (checksum data))⟩) := by
  unfold crcIn at h
  split at h
  · next hl => exact .inr ⟨hl, (respond_eq_next ..).mp h⟩
  · next hl => exact .inl ⟨Nat.not_le.mp hl, (raise_eq_next ..).mp h⟩

/-- What CHUNK can answer. -/
theorem chunkIn_cases {p : Params} {data : Bytes} {s t : State} (h : chunkIn p data s = .next t) :
    (p.maxDataLen < data.length ∧ t = s.setResponse ⟨.reqRefused, none⟩) ∨
      (data.length ≤ p.maxDataLen ∧ t = s.setResponse ⟨.ok, some (.frame (chunk data))⟩) := by
  unfold chunkIn at h
  split at h
  · next hl => exact .inr ⟨hl, (respond_eq_next ..).mp h⟩
  · next hl => exact .inl ⟨Nat.not_le.mp hl, (raise_eq_next ..).mp h⟩

/-- What BUILD can answer. -/
theorem buildIn_cases {p : Params} {name : CommandName} {dur seqv : Half} {s t : State}
    (h : buildIn p name dur seqv s = .next t) :
    (lookup (catalog p) name = none ∧ t = s.setResponse ⟨.unknownCommand, none⟩) ∨
      ∃ e, lookup (catalog p) name = some e ∧
        ((255 < (e.encoder dur).length ∧ t = s.setResponse ⟨.payloadTooLarge, none⟩) ∨
          ((e.encoder dur).length ≤ 255 ∧
            t = s.setResponse ⟨.ok, some (.packet (layout seqv e.opcode (e.encoder dur)))⟩)) := by
  unfold buildIn at h
  split at h
  · next hl => exact .inl ⟨hl, (raise_eq_next ..).mp h⟩
  · next e hl =>
    refine .inr ⟨e, hl, ?_⟩
    by_cases hlen : (e.encoder dur).length ≤ 255
    · rw [encodePayload_ok hlen] at h
      exact .inr ⟨hlen, (respond_eq_next ..).mp h⟩
    · rw [encodePayload_tooLarge (Nat.not_le.mp hlen)] at h
      exact .inl ⟨Nat.not_le.mp hlen, (raise_eq_next ..).mp h⟩

/-- What ENCODE_COMMAND can answer. -/
theorem encodeCommandIn_cases {p : Params} {name : CommandName} {dur : Half} {s t : State}
    (h : encodeCommandIn p name dur s = .next t) :
    (lookup (catalog p) name = none ∧ t = s.setResponse ⟨.unknownCommand, none⟩) ∨
      ∃ e, lookup (catalog p) name = some e ∧
        ((255 < (e.encoder dur).length ∧
            t = (s.setSeq (nextSeq s.seq)).setResponse ⟨.payloadTooLarge, none⟩) ∨
          ((e.encoder dur).length ≤ 255 ∧
            t = (s.setSeq (nextSeq s.seq)).setResponse
              ⟨.ok, some (.frame (chunk (layout (nextSeq s.seq) e.opcode (e.encoder dur))))⟩)) := by
  unfold encodeCommandIn at h
  split at h
  · next hl => exact .inl ⟨hl, (raise_eq_next ..).mp h⟩
  · next e hl =>
    refine .inr ⟨e, hl, ?_⟩
    by_cases hlen : (e.encoder dur).length ≤ 255
    · rw [encodePayload_ok hlen] at h
      exact .inr ⟨hlen, (respond_eq_next ..).mp h⟩
    · rw [encodePayload_tooLarge (Nat.not_le.mp hlen)] at h
      exact .inl ⟨Nat.not_le.mp hlen, (raise_eq_next ..).mp h⟩

end Sys2Proof.Machine
end

