-- ==== Sys2Proof/Laws/PerInstr.lean ====
section
/-! SUPPORT. Laws/PerInstr.lean: statements about every instruction, one lemma for each constructor. -/

namespace Sys2Proof.Laws.Presented

/-- The request that presents the instruction (R74, R75) has a header that selects an operation (R62). -/
def Statement (i : Instr) : Prop := ∀ r, asRequest i = some r → ∃ op, headerOp r.hdr = some op ∧ r.hdr = opHeader op

theorem resolve (name : CommandName) : Statement (.resolve name) :=
  fun r h => ⟨.resolve, by cases h; exact ⟨headerOp_opHeader _, rfl⟩⟩
theorem crc (data : Bytes) : Statement (.crc data) :=
  fun r h => ⟨.crc, by cases h; exact ⟨headerOp_opHeader _, rfl⟩⟩
theorem build (name : CommandName) (dur seqv : Half) : Statement (.build name dur seqv) :=
  fun r h => ⟨.build, by cases h; exact ⟨headerOp_opHeader _, rfl⟩⟩
theorem seqNext : Statement .seqNext :=
  fun r h => ⟨.seqNext, by cases h; exact ⟨headerOp_opHeader _, rfl⟩⟩
theorem chunk (data : Bytes) : Statement (.chunk data) :=
  fun r h => ⟨.chunk, by cases h; exact ⟨headerOp_opHeader _, rfl⟩⟩
theorem encodeCommand (name : CommandName) (dur : Half) : Statement (.encodeCommand name dur) :=
  fun r h => ⟨.encodeCommand, by cases h; exact ⟨headerOp_opHeader _, rfl⟩⟩
theorem beep (dur : Half) : Statement (.beep dur) :=
  fun r h => ⟨.encodeCommand, by cases h; exact ⟨headerOp_opHeader _, rfl⟩⟩
theorem flash (dur : Half) : Statement (.flash dur) :=
  fun r h => ⟨.encodeCommand, by cases h; exact ⟨headerOp_opHeader _, rfl⟩⟩
theorem stFull (d0 d1 d2 : Byte) : Statement (.stFull d0 d1 d2) :=
  fun r h => ⟨.chunk, by cases h; exact ⟨headerOp_opHeader _, rfl⟩⟩
theorem stTerm1 (d0 : Byte) : Statement (.stTerm1 d0) :=
  fun r h => ⟨.chunk, by cases h; exact ⟨headerOp_opHeader _, rfl⟩⟩
theorem stTerm2 (d0 d1 : Byte) : Statement (.stTerm2 d0 d1) :=
  fun r h => ⟨.chunk, by cases h; exact ⟨headerOp_opHeader _, rfl⟩⟩
theorem stTerm3 (d0 d1 d2 : Byte) : Statement (.stTerm3 d0 d1 d2) := fun r h => by cases h

end Sys2Proof.Laws.Presented
end

