-- ==== Sys2Proof/Laws/Step.lean ====
section
/-! SUPPORT. Laws/Step.lean: everything a step can do, and runs, one accepted event at a time. -/

namespace Sys2Proof.Machine

/-- What a step that answers a next state has done: waited, reset, refused a header, or run the decoded request. -/
theorem step_cases {s t : State} (h : step s = .next t) :
    (fetch s = none ∧ t = s) ∨
      (∃ cause s1, fetch s = some (.reset cause, s1) ∧ t = resetBy cause s1) ∨
      (∃ r s1, fetch s = some (.request r, s1) ∧ headerOp r.hdr = none ∧ t = s1.setResponse ⟨.reqRefused, none⟩) ∨
      (∃ r s1 op, fetch s = some (.request r, s1) ∧ headerOp r.hdr = some op ∧ exec (operandsOf op r) s1 = .next t) := by
  unfold step at h
  split at h
  · next hf => exact .inl ⟨hf, by cases h; rfl⟩
  · next cause s1 hf => exact .inr (.inl ⟨cause, s1, hf, by cases h; rfl⟩)
  · next r s1 hf =>
    simp only [decodeRequest] at h
    cases ho : headerOp r.hdr with
    | none => rw [ho] at h; exact .inr (.inr (.inl ⟨r, s1, hf, ho, (raise_eq_next ..).mp h⟩))
    | some op => rw [ho] at h; exact .inr (.inr (.inr ⟨r, s1, op, hf, ho, h⟩))

/-- With nothing presented a run goes on doing nothing. -/
theorem trace_of_fetch_none {s : State} (k : Nat) (h : fetch s = none) : trace k s = some ([], s) := by
  induction k with
  | zero => rfl
  | succ k ih => simp only [trace, h, ih]

/-- A run that accepts an event goes on from the state its step answers. -/
theorem trace_of_step {s s1 t : State} {e : Event} (k : Nat) (hf : fetch s = some (e, s1)) (ht : step s = .next t) :
    trace (k + 1) s = (trace k t).map (fun p => ((e, t.response) :: p.1, p.2)) := by
  simp only [trace, hf, ht]

@[simp] theorem drawsSinceReset_nil (n : Nat) : drawsSinceReset n [] = n := rfl

@[simp] theorem drawsSinceReset_reset (n : Nat) (cause : ResetCause) (resp : Option Response)
    (tr : List (Event × Option Response)) :
    drawsSinceReset n ((.reset cause, resp) :: tr) = drawsSinceReset 0 tr := rfl

@[simp] theorem drawsSinceReset_request (n : Nat) (r : Request) (resp : Option Response)
    (tr : List (Event × Option Response)) :
    drawsSinceReset n ((.request r, resp) :: tr) = drawsSinceReset (if isDraw (.request r) then n + 1 else n) tr := rfl

end Sys2Proof.Machine
end

