-- ==== Sys2Proof/Machine/Assembler.lean ====
section
/-! DEFINITION. Machine/Assembler.lean: the text of the assembler syntax (30_encoding.md R74, R75), read one line at a time.
CODEC reads no text: a line assembles to the request that is presented. -/

namespace Sys2Proof.Machine

/-- The tokens of a line. A word is a mnemonic or a number. -/
inductive Token where
  | word (chars : List Char)
  | quoted (chars : List Char)
  | comma
  | openBracket
  | closeBracket
deriving DecidableEq, Repr

/-- Where the reader stands: between tokens, or inside a word or a quoted name with the characters read so far, last first. -/
inductive LexMode where
  | gap
  | inWord (rev : List Char)
  | inQuote (rev : List Char)
deriving DecidableEq, Repr

def isWordChar (c : Char) : Bool :=
  decide ((48 ≤ c.toNat ∧ c.toNat ≤ 57) ∨ (65 ≤ c.toNat ∧ c.toNat ≤ 90) ∨ (97 ≤ c.toNat ∧ c.toNat ≤ 122) ∨ c = '_')

/-- What a character between tokens gives: tokens, and how to read on; `none` there ends the line at a comment. -/
def lexGap (c : Char) : Option (List Token × Option LexMode) :=
  if c = ' ' ∨ c = '\t' then some ([], some .gap)
  else if c = ',' then some ([.comma], some .gap)
  else if c = '[' then some ([.openBracket], some .gap)
  else if c = ']' then some ([.closeBracket], some .gap)
  else if c = ';' then some ([], none)
  else if c = '"' then some ([], some (.inQuote []))
  else if isWordChar c then some ([], some (.inWord [c]))
  else none

/-- The tokens of a line; `none` where the text is no line of R74. `;` starts a comment. -/
def lex : List Char → LexMode → Option (List Token)
  | [], .gap => some []
  | [], .inWord rev => some [.word rev.reverse]
  | [], .inQuote _ => none
  | c :: cs, .inQuote rev =>
    if c = '"' then (lex cs .gap).map (.quoted rev.reverse :: ·) else lex cs (.inQuote (c :: rev))
  | c :: cs, .inWord rev =>
    if isWordChar c then lex cs (.inWord (c :: rev))
    else
      match lexGap c with
      | none => none
      | some (ts, none) => some (.word rev.reverse :: ts)
      | some (ts, some mode) => (lex cs mode).map (.word rev.reverse :: ts ++ ·)
  | c :: cs, .gap =>
    match lexGap c with
    | none => none
    | some (ts, none) => some ts
    | some (ts, some mode) => (lex cs mode).map (ts ++ ·)

/-! ## Numbers: hex with `0x`, or decimal; the bytes of `DATA` are hex, with or without `0x` (R74) -/

def digitVal (base : Nat) (c : Char) : Option Nat :=
  let n := c.toNat
  let v := if 48 ≤ n ∧ n ≤ 57 then n - 48 else if 65 ≤ n ∧ n ≤ 70 then n - 55 else if 97 ≤ n ∧ n ≤ 102 then n - 87 else 16
  if v < base then some v else none

def digits (base : Nat) : Nat → List Char → Option Nat
  | acc, [] => some acc
  | acc, c :: cs =>
    match digitVal base c with
    | some v => digits base (acc * base + v) cs
    | none => none

/-- A number below `bound`; `base` is that of a number without `0x`. -/
def number (base bound : Nat) (cs : List Char) : Option Nat :=
  let value :=
    match cs with
    | [] => none
    | ['0', 'x'] => none
    | '0' :: 'x' :: ds => digits 16 0 ds
    | ds => digits base 0 ds
  match value with
  | some v => if v < bound then some v else none
  | none => none

/-- `<dur>` or `<seq>`: 0 .. 0xFFFF. -/
def half (cs : List Char) : Option Half := (number 10 65536 cs).map (BitVec.ofNat 16)

/-- The bytes of `[b0, b1, ...]` after the opening bracket. -/
def byteList : List Token → Option Bytes
  | [.closeBracket] => some []
  | [.word b, .closeBracket] => (number 16 256 b).map fun n => [BitVec.ofNat 8 n]
  | .word b :: .comma :: .word b' :: rest =>
    match number 16 256 b, byteList (.word b' :: rest) with
    | some n, some bs => some (BitVec.ofNat 8 n :: bs)
    | _, _ => none
  | _ => none

/-! ## Lines -/

def mnResolve : List Char := ['R', 'E', 'S', 'O', 'L', 'V', 'E']
def mnCrc : List Char := ['C', 'R', 'C']
def mnBuild : List Char := ['B', 'U', 'I', 'L', 'D']
def mnSeqNext : List Char := ['S', 'E', 'Q', '_', 'N', 'E', 'X', 'T']
def mnChunk : List Char := ['C', 'H', 'U', 'N', 'K']
def mnEncodeCommand : List Char := ['E', 'N', 'C', 'O', 'D', 'E', '_', 'C', 'O', 'M', 'M', 'A', 'N', 'D']
def mnBeep : List Char := ['B', 'E', 'E', 'P']
def mnFlash : List Char := ['F', 'L', 'A', 'S', 'H']

/-- The line that a mnemonic and the tokens after it spell (R74, R75). -/
def lineOf (mn : List Char) (operands : List Token) : Option Line :=
  if mn = mnResolve then
    match operands with
    | [.quoted name] => some (.resolve name)
    | _ => none
  else if mn = mnCrc then
    match operands with
    | .openBracket :: rest => (byteList rest).map .crc
    | _ => none
  else if mn = mnBuild then
    match operands with
    | [.quoted name, .comma, .word d, .comma, .word v] =>
      match half d, half v with
      | some d, some v => some (.build name (some d) v)
      | _, _ => none
    | [.quoted name, .comma, .comma, .word v] => (half v).map (.build name none)
    | _ => none
  else if mn = mnSeqNext then
    match operands with
    | [] => some .seqNext
    | _ => none
  else if mn = mnChunk then
    match operands with
    | .openBracket :: rest => (byteList rest).map .chunk
    | _ => none
  else if mn = mnEncodeCommand then
    match operands with
    | [.quoted name] => some (.encodeCommand name none)
    | [.quoted name, .comma, .word d] => (half d).map fun d => .encodeCommand name (some d)
    | _ => none
  else if mn = mnBeep then
    match operands with
    | [] => some (.beep none)
    | [.word d] => (half d).map fun d => .beep (some d)
    | _ => none
  else if mn = mnFlash then
    match operands with
    | [] => some (.flash none)
    | [.word d] => (half d).map fun d => .flash (some d)
    | _ => none
  else none

/-- The line a text spells; `none` for a text that spells none, an empty line among them. -/
def parseLine (text : List Char) : Option Line :=
  match lex text .gap with
  | some (.word mn :: operands) => lineOf mn operands
  | _ => none

/-- The request a text assembles to (R74). -/
def assembleText (text : List Char) : Option Request :=
  match parseLine text with
  | some l => assemble l
  | none => none

end Sys2Proof.Machine
end

