-- ==== Sys2Proof/Tests/Slice0.lean ====
section
/-! SUPPORT. Tests/Slice0.lean: the words of every constructor, the ill-formed terms WellFormed refuses, vectors of
95_test_vectors.md, and a witness for every statement of Obligations.lean that has hypotheses. -/

namespace Sys2Proof.Tests

open Sys2Proof Sys2Proof.Machine

/-! ## Small states and configurations -/

/-- A state with `SEQ` = q, and nothing presented. -/
def at0 (q : Half) : State := { State.reset with seq := q }

/-- A state with `SEQ` = q in which one requester presents r. -/
def presenting (q : Half) (r : Request) : State := { at0 q with requesters := [[.request r]] }

/-- The test entry of 95_test_vectors.md §2.3. -/
def blob : CommandSpec where
  name := ['b', 'l', 'o', 'b']
  opcode := 0x7F00#16
  shape := 0x02#8
  encoder := fun d => List.replicate d.toNat 0xAA#8

/-- A configuration with that entry, and the least `MAX_DATA_LEN`. -/
def extended (order : ByteOrder) : Params where
  durationByteOrder := order
  extraEntries := [blob]
  maxDataLen := 267

/-- What an outcome answers, and the `SEQ` it leaves. -/
def answer : Outcome → Option (Option Response × Half)
  | .next t => some (t.response, t.seq)
  | .fault _ => none
  | .refused _ => none

def hex (ns : List Nat) : Bytes := ns.map (BitVec.ofNat 8)

def okFrame (ns : List Nat) : Option Response := some ⟨.ok, some (.frame (hex ns))⟩

def okPacket (ns : List Nat) : Option Response := some ⟨.ok, some (.packet (hex ns))⟩

/-! ## Decoding (words written out from 30_encoding.md R62, R70, R73) -/

theorem test_decode_resolve : decode (.request { hdr := 0b00000001#8, name := ['x'] }) = .ok (.resolve ['x']) := by decide
theorem test_decode_crc : decode (.request { hdr := 0b00000010#8, data := [0x62#8] }) = .ok (.crc [0x62#8]) := by decide
theorem test_decode_build : decode (.request { hdr := 0b00000011#8, name := ['x'], dur := 7#16, seqv := 9#16 }) =
    .ok (.build ['x'] 7#16 9#16) := by decide
theorem test_decode_seqNext : decode (.request { hdr := 0b00000100#8, seqv := 3#16 }) = .ok .seqNext := by decide
theorem test_decode_chunk : decode (.request { hdr := 0b00000101#8, data := [0xA0#8] }) = .ok (.chunk [0xA0#8]) := by decide
theorem test_decode_encodeCommand : decode (.request { hdr := 0b00000110#8, name := ['x'], dur := 7#16 }) =
    .ok (.encodeCommand ['x'] 7#16) := by decide
theorem test_decode_beep : decode (.command 0b0000000100000000#16 7#16) = .ok (.beep 7#16) := by decide
theorem test_decode_flash : decode (.command 0b0000001000000010#16 7#16) = .ok (.flash 7#16) := by decide
theorem test_decode_stFull : decode (.chunk 0b00000100#8 1#8 2#8 3#8) = .ok (.stFull 1#8 2#8 3#8) := by decide
theorem test_decode_stTerm1 : decode (.chunk 0b00000101#8 1#8 0#8 0#8) = .ok (.stTerm1 1#8) := by decide
theorem test_decode_stTerm2 : decode (.chunk 0b00000110#8 1#8 2#8 0#8) = .ok (.stTerm2 1#8 2#8) := by decide
theorem test_decode_stTerm3 : decode (.chunk 0b00000111#8 1#8 2#8 3#8) = .ok (.stTerm3 1#8 2#8 3#8) := by decide

/-- V-REF-1 to V-REF-4 (R63). -/
theorem test_decode_illegal_headers :
    [0x00#8, 0x07#8, 0x0F#8, 0x16#8].map (fun h => decode (.request { hdr := h })) =
      [.error (.illegalHeader 0x00#8), .error (.illegalHeader 0x07#8), .error (.illegalHeader 0x0F#8),
       .error (.illegalHeader 0x16#8)] := by decide

theorem test_decode_rejects_by_name :
    decode (.command 0x0201#16 0#16) = .error (.unassignedOpcode 0x0201#16) ∧
      decode (.chunk 0x08#8 0#8 0#8 0#8) = .error (.unknownStatus 0x08#8) ∧
      decode (.chunk 0x06#8 1#8 2#8 3#8) = .error (.paddingNotZero 0x06#8) := by decide

theorem test_table_words :
    decodeTableWord 8 0x01 = some (.resolve []) ∧ decodeTableWord 8 0x06 = some (.encodeCommand [] 0#16) ∧
      decodeTableWord 16 0x0100 = some (.beep 0#16) ∧ decodeTableWord 8 0x07 = none := by decide

/-! ## Well-formedness: `DATA` longer than `MAX_DATA_LEN` is refused, and the bound itself is not -/

theorem test_wellFormed_crc :
    (Instr.crc (List.replicate 268 0x00#8)).wellFormed (extended .BE) = false ∧
      (Instr.crc (List.replicate 267 0x00#8)).wellFormed (extended .BE) = true := by decide +kernel
theorem test_wellFormed_chunk :
    (Instr.chunk (List.replicate 268 0x00#8)).wellFormed (extended .BE) = false ∧
      (Instr.chunk (List.replicate 267 0x00#8)).wellFormed (extended .BE) = true := by decide +kernel

/-! ## Assembler lines (R74, R75; the lines of 95_test_vectors.md §3) -/

theorem test_text_beep : assembleText ['B', 'E', 'E', 'P', ' ', '0', 'x', '1', '2', '3', '4'] =
    some { hdr := 0x06#8, name := ['b', 'e', 'e', 'p'], dur := 0x1234#16 } := by decide
theorem test_text_build : assembleText ['B', 'U', 'I', 'L', 'D', ' ', '"', 'x', '"', ',', ' ', ',', ' ', '1', '2', ';', '?'] =
    some { hdr := 0x03#8, name := ['x'], seqv := 12#16 } := by decide
theorem test_text_crc : assembleText ['C', 'R', 'C', ' ', '[', '0', '0', ',', '0', 'x', '2', '3', ']'] =
    some { hdr := 0x02#8, data := [0x00#8, 0x23#8] } := by decide
theorem test_text_out_of_range : assembleText ['B', 'E', 'E', 'P', ' ', '6', '5', '5', '3', '6'] = none := by decide

/-! ## Checksum vectors (95_test_vectors.md §2.1) -/

theorem test_checksum_vectors :
    [[], [0x00], [0x80], [0xFF], [0xFF, 0xFF, 0xFF, 0xFF], [0x31, 0x32, 0x33, 0x34, 0x35, 0x36, 0x37, 0x38, 0x39],
      [0x00, 0x01, 0x01, 0x00, 0x02, 0x00, 0x00, 0x23, 0x23]].map (fun bs => checksum (hex bs)) =
    [0xFFFFFFFF#32, 0x4E08BFB4#32, 0x27045F5A#32, 0xFFFFFF00#32, 0x00000000#32, 0x0376E6E7#32, 0xCB13ED95#32] := by
  decide +kernel

/-- V-CAT-6, V-CAT-7. -/
theorem test_duration_orders :
    encDur16 .BE 0x1234#16 = [0x12#8, 0x34#8] ∧ encDur16 .LE 0x1234#16 = [0x34#8, 0x12#8] := by decide

/-! ## One step of each instruction -/

/-- V-CAT-2. -/
theorem test_resolve_flash : answer (exec (.resolve ['f', 'l', 'a', 's', 'h']) (at0 5#16)) =
    some (some ⟨.ok, some (.spec 0x0202#16 0x01#8)⟩, 5#16) := by decide
/-- V-CAT-5. -/
theorem test_resolve_is_case_sensitive : answer (exec (.resolve ['B', 'e', 'e', 'p']) (at0 5#16)) =
    some (some ⟨.unknownCommand, none⟩, 5#16) := by decide

/-- V-CRC-8 by request. -/
theorem test_crc : answer (crcIn (extended .BE) (hex [0x00, 0x01, 0x01, 0x00, 0x02, 0x00, 0x00, 0x23, 0x23]) (at0 5#16)) =
    some (some ⟨.ok, some (.crc 0xCB13ED95#32)⟩, 5#16) := by decide +kernel
/-- V-REF-5. -/
theorem test_crc_overlong : answer (crcIn (extended .BE) (List.replicate 268 0x00#8) (at0 5#16)) =
    some (some ⟨.reqRefused, none⟩, 5#16) := by decide +kernel

/-- V-PKT-16 and V-PKT-17. -/
theorem test_build_orders :
    answer (buildIn (extended .BE) ['f', 'l', 'a', 's', 'h'] 0x0A0B#16 5#16 (at0 5#16)) =
      some (okPacket [0x62, 0x0F, 0xA0, 0x00, 0xAB, 0x00, 0x05, 0x02, 0x02, 0x02, 0x0A, 0x0B, 0x23, 0x23], 5#16) ∧
    answer (buildIn (extended .LE) ['f', 'l', 'a', 's', 'h'] 0x0A0B#16 5#16 (at0 5#16)) =
      some (okPacket [0x62, 0xD2, 0x15, 0x36, 0x9B, 0x00, 0x05, 0x02, 0x02, 0x02, 0x0B, 0x0A, 0x23, 0x23], 5#16) := by
  decide +kernel
/-- V-PKT-19 (no payload), V-PKT-22, V-PKT-23. -/
theorem test_build_payload_bounds :
    answer (buildIn (extended .BE) ['b', 'l', 'o', 'b'] 0#16 1#16 (at0 5#16)) =
      some (okPacket [0x62, 0x61, 0x73, 0x1D, 0x1D, 0x00, 0x01, 0x7F, 0x00, 0x00, 0x23, 0x23], 5#16) ∧
    answer (buildIn (extended .BE) ['b', 'l', 'o', 'b'] 256#16 1#16 (at0 5#16)) =
      some (some ⟨.payloadTooLarge, none⟩, 5#16) ∧
    answer (buildIn (extended .BE) ['n', 'o', 'p', 'e'] 256#16 1#16 (at0 5#16)) =
      some (some ⟨.unknownCommand, none⟩, 5#16) := by decide +kernel

/-- V-SEQ-1. -/
theorem test_seqNext_first : answer (exec .seqNext State.reset) = some (some ⟨.ok, some (.seqn 1#16)⟩, 1#16) := by decide
/-- V-SEQ-5. -/
theorem test_seqNext_wraps : answer (exec .seqNext (at0 0xFFFF#16)) = some (some ⟨.ok, some (.seqn 0#16)⟩, 0#16) := by decide

/-- V-CHK-4. -/
theorem test_chunk_four : answer (chunkIn (extended .BE) (hex [0xA0, 0xA1, 0xA2, 0xA3]) (at0 5#16)) =
    some (okFrame [0x04, 0xA0, 0xA1, 0xA2, 0x05, 0xA3, 0x00, 0x00], 5#16) := by decide
/-- V-CHK-6: no terminal chunk. -/
theorem test_chunk_multiple_of_three : chunk (hex [0xA0, 0xA1, 0xA2, 0xA3, 0xA4, 0xA5]) =
    hex [0x04, 0xA0, 0xA1, 0xA2, 0x04, 0xA3, 0xA4, 0xA5] := by decide

/-- V-ENC-3 and V-ENC-4. -/
theorem test_encodeCommand_orders :
    answer (encodeCommandIn (extended .BE) ['b', 'e', 'e', 'p'] 0x1234#16 (at0 0#16)) =
      some (okFrame [0x04, 0x62, 0xA1, 0xE0, 0x04, 0x02, 0x63, 0x00, 0x04, 0x01, 0x01, 0x00, 0x04, 0x02, 0x12, 0x34,
        0x06, 0x23, 0x23, 0x00], 1#16) ∧
    answer (encodeCommandIn (extended .LE) ['b', 'e', 'e', 'p'] 0x1234#16 (at0 0#16)) =
      some (okFrame [0x04, 0x62, 0xB4, 0x20, 0x04, 0x5B, 0xBC, 0x00, 0x04, 0x01, 0x01, 0x00, 0x04, 0x02, 0x34, 0x12,
        0x06, 0x23, 0x23, 0x00], 1#16) := by decide +kernel
/-- V-ENC-6 and V-ENC-7. -/
theorem test_encodeCommand_errors :
    answer (encodeCommandIn (extended .BE) ['u', 'n', 'k', 'n', 'o', 'w', 'n'] 0#16 (at0 7#16)) =
      some (some ⟨.unknownCommand, none⟩, 7#16) ∧
    answer (encodeCommandIn (extended .BE) ['b', 'l', 'o', 'b'] 256#16 (at0 0#16)) =
      some (some ⟨.payloadTooLarge, none⟩, 1#16) := by decide +kernel

/-- V-ENC-1, on this hardware whatever its byte order: the two payload bytes are equal. -/
theorem test_beep : answer (exec (.beep 0#16) State.reset) =
    some (okFrame [0x04, 0x62, 0xCB, 0x13, 0x04, 0xED, 0x95, 0x00, 0x04, 0x01, 0x01, 0x00, 0x04, 0x02, 0x00, 0x00,
      0x06, 0x23, 0x23, 0x00], 1#16) := by
  have either : ∀ o, encodeCommandIn { Config.hw with durationByteOrder := o } Config.nameBeep 0#16 State.reset =
      encodeCommandIn (extended .BE) Config.nameBeep 0#16 State.reset := by
    intro o; cases o <;> rfl
  rw [show exec (.beep 0#16) State.reset = _ from either Config.durationByteOrder]
  decide +kernel
/-- V-ENC-2. -/
theorem test_flash : answer (exec (.flash 0#16) State.reset) =
    some (okFrame [0x04, 0x62, 0x2C, 0xBA, 0x04, 0x4F, 0x56, 0x00, 0x04, 0x01, 0x02, 0x02, 0x04, 0x02, 0x00, 0x00,
      0x06, 0x23, 0x23, 0x00], 1#16) := by
  have either : ∀ o, encodeCommandIn { Config.hw with durationByteOrder := o } Config.nameFlash 0#16 State.reset =
      encodeCommandIn (extended .BE) Config.nameFlash 0#16 State.reset := by
    intro o; cases o <;> rfl
  rw [show exec (.flash 0#16) State.reset = _ from either Config.durationByteOrder]
  decide +kernel

/-- R70, with the frames of V-CHK-3, V-CHK-1 and V-CHK-2. -/
theorem test_status_rows :
    answer (exec (.stFull 0xA0#8 0xA1#8 0xA2#8) (at0 5#16)) = some (okFrame [0x04, 0xA0, 0xA1, 0xA2], 5#16) ∧
      answer (exec (.stTerm1 0xA0#8) (at0 5#16)) = some (okFrame [0x05, 0xA0, 0x00, 0x00], 5#16) ∧
      answer (exec (.stTerm2 0xA0#8 0xA1#8) (at0 5#16)) = some (okFrame [0x06, 0xA0, 0xA1, 0x00], 5#16) := by decide

/-- R72: bit 2 is 1 in all four codes; bits 1:0 are the number of valid bytes of a terminal chunk, and 0 in 0x04. -/
theorem test_status_pattern :
    [Config.ST_FULL, Config.ST_TERM1, Config.ST_TERM2, Config.ST_TERM3].map (fun st => (st.getLsbD 2, st.toNat % 4)) =
      [(true, 0), (true, 1), (true, 2), (true, 3)] := by decide

/-- R70's column of valid data bytes, and 0 for a status without a meaning (R71). -/
theorem test_valid_bytes : [0x04#8, 0x05#8, 0x06#8, 0x07#8, 0x03#8, 0x08#8].map validBytes = [3, 1, 2, 3, 0, 0] := by decide

/-! ## Steps -/

/-- V-REF-4: ENCODE_COMMAND is not performed and `SEQ` does not advance. -/
theorem test_step_illegal_header : answer (step (presenting 5#16 { hdr := 0x16#8, name := ['b', 'e', 'e', 'p'] })) =
    some (some ⟨.reqRefused, none⟩, 5#16) := by decide
/-- R261: the second requester's reset goes first. -/
theorem test_step_reset_first : answer (step { at0 5#16 with
      requesters := [[.request { hdr := 0x04#8 }], [.reset .sessionTeardown]], grants := [1] }) =
    some (none, 0#16) := by decide
/-- A table word presented at reset runs as the first request. -/
theorem test_step_fetch_word : answer (step (State.reset.withFetchWord 8 0x04)) =
    some (some ⟨.ok, some (.seqn 1#16)⟩, 1#16) := by decide
theorem test_step_idle : step State.reset = .next State.reset := rfl

/-! ## Witnesses: for each statement with hypotheses, values that meet them all (each clause, at the ends of its range) -/

theorem extended_legal (o : ByteOrder) : (extended o).Legal := by
  refine ⟨Nat.le_refl 267, ?_⟩
  simp [extended, blob, Config.nameBeep, Config.nameFlash]

theorem hw_bound (n : Nat) (h : n ≤ 267) : n ≤ Config.hw.maxDataLen := by
  simp [Config.hw, Config.LONGEST_PACKET]; omega

/-- `DATA` one byte longer than this hardware's bound. -/
def overlong : Bytes := List.replicate (Config.hw.maxDataLen + 1) 0x00#8

theorem overlong_is_overlong : Config.hw.maxDataLen < overlong.length := by simp [overlong]

theorem witness_LookupReturnsTheEntryOfThatName : ∃ p : Params, p.Legal := ⟨extended .BE, extended_legal .BE⟩

theorem witness_PayloadAbove255BytesIsTooLarge :
    (blob.encoder 255#16).length ≤ 255 ∧ 255 < (blob.encoder 256#16).length := by decide +kernel

/-- The entry found is one whose payload can be too large. -/
theorem witness_ResolveAnswersOpcodeAndShape :
    (Config.nameUnknown ≠ ['b', 'e', 'e', 'p'] ∧ Config.nameUnknown ≠ ['f', 'l', 'a', 's', 'h']) ∧
      lookup (catalog (extended .BE)) ['b', 'l', 'o', 'b'] = some blob ∧ 255 < (blob.encoder 256#16).length ∧
      (lookup (catalog (extended .BE)) Config.nameUnknown).isNone = true :=
  ⟨by decide, rfl, by decide +kernel, by decide⟩

theorem witness_ChecksumDetectsAnyChangedByte : (0x00#8 : Byte) ≠ 0x01#8 := by decide

theorem witness_CrcAnswersChecksumOfData :
    (List.replicate 267 (0x00#8 : Byte)).length ≤ Config.hw.maxDataLen ∧ Config.hw.maxDataLen < overlong.length :=
  ⟨hw_bound _ (by decide +kernel), overlong_is_overlong⟩

theorem witness_PacketFieldsReadBack : (List.replicate 255 (0xAA#8 : Byte)).length ≤ 255 := by decide +kernel

theorem witness_BuildAnswersThePacketBytes :
    ((Config.nameBeep, 0x0100#16) = (['b', 'e', 'e', 'p'], (0x0100#16 : Half))) ∧
      ((Config.nameFlash, 0x0202#16) = (['f', 'l', 'a', 's', 'h'], (0x0202#16 : Half))) ∧
      Config.nameUnknown ≠ ['b', 'e', 'e', 'p'] ∧ Config.nameUnknown ≠ ['f', 'l', 'a', 's', 'h'] := by decide

/-- Payloads of 0 and of 255 bytes, the ends of the range. -/
theorem witness_BuiltPacketKeepsTheLayout : ∀ d : Half, d = 0#16 ∨ d = 255#16 →
    ∃ t pkt, lookup (catalog (extended .BE)) ['b', 'l', 'o', 'b'] = some blob ∧
      buildIn (extended .BE) ['b', 'l', 'o', 'b'] d 1#16 State.reset = .next t ∧
      t.response = some ⟨.ok, some (.packet pkt)⟩ := by
  intro d hd
  have fits : (blob.encoder d).length ≤ 255 := by rcases hd with rfl | rfl <;> decide +kernel
  have found : lookup (catalog (extended .BE)) ['b', 'l', 'o', 'b'] = some blob := rfl
  refine ⟨State.reset.setResponse ⟨.ok, some (.packet (layout 1#16 blob.opcode (blob.encoder d)))⟩, _, found, ?_, rfl⟩
  simp only [buildIn, found, encodePayload_ok fits]
  rfl

theorem witness_BuiltPacketKeepsTheChecksum :
    ∃ t pkt, buildIn (extended .LE) ['b', 'e', 'e', 'p'] 0x1234#16 1#16 State.reset = .next t ∧
      t.response = some ⟨.ok, some (.packet pkt)⟩ := ⟨_, _, rfl, rfl⟩

theorem witness_BuildErrorsChangeNoState :
    (lookup (catalog (extended .BE)) ['n', 'o', 'p', 'e']).isNone = true ∧
      (lookup (catalog (extended .BE)) ['b', 'l', 'o', 'b'] = some blob) ∧ 255 < (blob.encoder 256#16).length ∧
      (blob.encoder 255#16).length ≤ 255 := ⟨by decide, rfl, by decide +kernel, by decide +kernel⟩

/-- Two requesters, one with a draw and another request, one with a draw. -/
theorem witness_SequentialDrawsCountFromOne :
    let s : State := { at0 0#16 with
      requesters := [[.request { hdr := 0x04#8 }, .request { hdr := 0x02#8 }], [.request { hdr := 0x04#8 }]], grants := [1] }
    s.seq = 0x0000#16 ∧ ∀ stream ∈ s.requesters, ∀ e ∈ stream, ∃ r, e = Event.request r := by
  refine ⟨rfl, ?_⟩
  intro stream hs e he
  simp at hs
  rcases hs with rfl | rfl <;> simp at he <;> rcases he with rfl | rfl <;> exact ⟨_, rfl⟩

/-- V-SEQ-6: three concurrent draws. -/
theorem witness_ConcurrentDrawsReceiveDistinctNumbers :
    let rs : List Request := [{ hdr := 0x04#8 }, { hdr := 0x06#8, name := ['b', 'e', 'e', 'p'] }, { hdr := 0x04#8 }]
    let s : State := { at0 0xFFFE#16 with requesters := rs.map (fun r => [Event.request r]), grants := [2, 0] }
    s.requesters = rs.map (fun r => [Event.request r]) ∧ (∀ r ∈ rs, isDraw (.request r) = true) ∧ rs.length ≤ 65535 ∧
      1 < rs.length := by decide

/-- A reset between two draws. -/
theorem witness_DrawsCountFromTheLastReset :
    let s : State := { at0 5#16 with
      requesters := [[.request { hdr := 0x04#8 }, .reset .sessionStart, .request { hdr := 0x04#8 }]] }
    ∃ x1 x2 x3 t, trace 3 s = some ([x1, x2, x3], t) ∧ [x1, x2, x3] = [x1, x2] ++ x3 :: [] ∧ isDraw x3.1 = true ∧
      drawsSinceReset 5 [x1] = 6 ∧ drawsSinceReset 5 [x1, x2] = 0 := ⟨_, _, _, _, rfl, rfl, rfl, rfl, rfl⟩

/-- V-SEQ-6 with the third requester served first. -/
theorem witness_AnyRequesterMayReceiveAnyNumber :
    let rs : List Request := [{ hdr := 0x04#8 }, { hdr := 0x06#8, name := ['b', 'e', 'e', 'p'] }, { hdr := 0x04#8 }]
    let s : State := { at0 0xFFFE#16 with requesters := rs.map (fun r => [Event.request r]) }
    s.requesters = rs.map (fun r => [Event.request r]) ∧ (∀ r ∈ rs, isDraw (.request r) = true) ∧
      [2, 0, 1].Perm (List.range rs.length) ∧ [2, 0, 1][0]? = some 2 := by decide

theorem witness_ChunkAnswersTheFrame :
    (List.replicate 267 (0x00#8 : Byte)).length ≤ Config.hw.maxDataLen ∧ Config.hw.maxDataLen < overlong.length :=
  ⟨hw_bound _ (by decide +kernel), overlong_is_overlong⟩

theorem witness_FrameLengthLaw :
    (List.replicate 2 (0xAA#8 : Byte)).length = 2 ∧ (List.replicate 255 (0xAA#8 : Byte)).length ≤ 255 := by decide +kernel

/-- The last chunk of 14 bytes (S3). -/
theorem witness_ChunkBytesStandInIndexOrder : 3 * 4 < (List.replicate 14 (0x00#8 : Byte)).length := by decide

/-- The last chunks of 12, 13 and 14 bytes, and the first of 13 (S3 to S5). -/
theorem witness_MultipleOfThreeHasNoTerminalChunk :
    (4 * 3 < (chunk (List.replicate 12 0x10#8)).length ∧ (List.replicate 12 (0x10#8 : Byte)).length % 3 = 0) ∧
      (4 * (0 + 1) < (chunk (List.replicate 13 0x10#8)).length ∧ (List.replicate 13 (0x10#8 : Byte)).length % 3 ≠ 0) ∧
      4 * (4 + 1) = (chunk (List.replicate 14 0x10#8)).length ∧ (List.replicate 14 (0x10#8 : Byte)).length % 3 ≠ 0 := by
  decide

theorem witness_ReservedStatusIsNeverEmitted :
    ∃ t, exec (.stTerm1 0xA0#8) State.reset = .next t ∧
      t.response = some ⟨.ok, some (.frame [0x05#8, 0xA0#8, 0x00#8, 0x00#8])⟩ ∧
      4 * 0 < [0x05#8, 0xA0#8, (0x00#8 : Byte), 0x00#8].length := ⟨_, rfl, rfl, by decide⟩

theorem witness_EncodeCommandResolvesThenDrawsThenEncodes :
    (lookup (catalog (extended .BE)) ['n', 'o', 'p', 'e']).isNone = true ∧
      (lookup (catalog (extended .BE)) ['b', 'l', 'o', 'b'] = some blob) ∧ 255 < (blob.encoder 256#16).length ∧
      (blob.encoder 255#16).length ≤ 255 := ⟨by decide, rfl, by decide +kernel, by decide +kernel⟩

theorem witness_EncodeCommandAnswersTheFrameBytes :
    ((Config.nameBeep, 0x0100#16, Instr.beep 1#16) = (['b', 'e', 'e', 'p'], (0x0100#16 : Half), Instr.beep 1#16)) ∧
      ((Config.nameFlash, 0x0202#16, Instr.flash 1#16) = (['f', 'l', 'a', 's', 'h'], (0x0202#16 : Half), Instr.flash 1#16)) ∧
      Config.nameUnknown ≠ ['b', 'e', 'e', 'p'] ∧ Config.nameUnknown ≠ ['f', 'l', 'a', 's', 'h'] := by decide

/-- With `SEQ` = 0xFFFF, where the draw wraps. -/
theorem witness_EncodeCommandIsDrawThenBuildThenChunk :
    (extended .BE).Legal ∧ ∃ t pkt,
      buildIn (extended .BE) ['b', 'e', 'e', 'p'] 0#16 ((at0 0xFFFF#16).seq + 1#16) (at0 0xFFFF#16) = .next t ∧
      t.response = some ⟨.ok, some (.packet pkt)⟩ := ⟨extended_legal .BE, _, _, rfl, rfl⟩

theorem witness_FrameCarriesTheNumberOpcodeAndPayload :
    lookup (catalog (extended .BE)) ['b', 'l', 'o', 'b'] = some blob ∧ (blob.encoder 255#16).length ≤ 255 :=
  ⟨rfl, by decide +kernel⟩

/-- Each of the three ways a header is illegal, at the ends of its range. -/
theorem witness_IllegalHeaderIsRefused :
    (∃ s1, fetch (presenting 5#16 { hdr := 0x00#8 }) = some (.request { hdr := 0x00#8 }, s1)) ∧
      (0x00#8 : Byte).extractLsb' 0 4 = 0x0#4 ∧ 7 ≤ ((0x07#8 : Byte).extractLsb' 0 4).toNat ∧
      7 ≤ ((0x0F#8 : Byte).extractLsb' 0 4).toNat ∧ (0x16#8 : Byte).extractLsb' 4 4 ≠ 0x0#4 :=
  ⟨⟨_, rfl⟩, by decide, by decide, by decide, by decide⟩

/-- The bound of the least legal configuration, and its longest packet: a payload of 255 bytes. -/
theorem witness_OverlongDataIsRefused :
    Config.hw.maxDataLen < overlong.length ∧
      (extended .BE).maxDataLen < (List.replicate 268 (0x00#8 : Byte)).length ∧
      (∃ t pkt, exec (.build Config.nameBeep 1#16 1#16) State.reset = .next t ∧
        t.response = some ⟨.ok, some (.packet pkt)⟩) ∧
      (extended .BE).Legal ∧ ∃ t pkt, buildIn (extended .BE) ['b', 'l', 'o', 'b'] 255#16 1#16 State.reset = .next t ∧
        t.response = some ⟨.ok, some (.packet pkt)⟩ := by
  refine ⟨overlong_is_overlong, by decide +kernel, ?_, extended_legal .BE, ?_⟩
  · simp only [exec, execBuild, buildIn, lookup_hw, if_true]
    rw [encodePayload_ok (Nat.le_of_ble_eq_true rfl)]
    exact ⟨_, _, rfl, rfl⟩
  · obtain ⟨t, pkt, -, built, answered⟩ := witness_BuiltPacketKeepsTheLayout 255#16 (.inr rfl)
    exact ⟨t, pkt, built, answered⟩

theorem witness_StatusCodesAndNeverRaisedKinds :
    ∃ t r, exec (.resolve Config.nameUnknown) State.reset = .next t ∧ t.response = some r := by
  simp only [exec, execResolve, resolveIn, lookup_hw]
  exact ⟨_, _, rfl, rfl⟩

theorem witness_ResultPresentExactlyWhenOk :
    ∃ s1, fetch (presenting 5#16 { hdr := 0x04#8 }) = some (.request { hdr := 0x04#8 }, s1) := ⟨_, rfl⟩

/-- A request of each kind: over-long, of an unknown name, and one that passes. -/
theorem witness_ErrorsAreCheckedInOrder :
    (∃ s1, fetch (presenting 5#16 { hdr := 0x02#8, data := overlong }) =
        some (.request { hdr := 0x02#8, data := overlong }, s1)) ∧
      isRefused { hdr := 0x02#8, data := overlong } = true ∧ isRefused { hdr := 0x07#8 } = true ∧
      (isRefused { hdr := 0x01#8 } = false ∧ namesUnknown { hdr := 0x01#8 } = true) ∧
      (isRefused { hdr := 0x04#8 } = false ∧ namesUnknown { hdr := 0x04#8 } = false) := by
  refine ⟨⟨_, rfl⟩, ?_, by decide, by decide, by decide⟩
  have h : headerOp 0x02#8 = some .crc := by decide
  simp [isRefused, h, usesData, overlong_is_overlong]

theorem witness_ErrorsLeaveOnlyTheResponse :
    ∃ t r, exec (.resolve Config.nameUnknown) State.reset = .next t ∧ t.response = some r ∧ r.status ≠ .ok := by
  simp only [exec, execResolve, resolveIn, lookup_hw]
  exact ⟨_, _, rfl, rfl, by decide⟩

/-- An instruction that draws and one that does not. -/
theorem witness_OnlyDrawsWriteSeq :
    (∃ t, exec .seqNext (at0 0xFFFF#16) = .next t) ∧ draws .seqNext = true ∧
      (∃ t, exec (.stTerm1 0#8) State.reset = .next t) ∧ draws (.stTerm1 0#8) = false :=
  ⟨⟨_, rfl⟩, rfl, ⟨_, rfl⟩, rfl⟩

theorem witness_OnlyDrawsAreNotIdempotent :
    (∃ t, exec .seqNext (at0 0xFFFF#16) = .next t) ∧ draws .seqNext = true ∧
      (∃ t, exec (.resolve ['x']) State.reset = .next t) ∧ draws (.resolve ['x']) = false := by
  refine ⟨⟨_, rfl⟩, rfl, ?_, rfl⟩
  simp only [exec, execResolve, resolveIn, lookup_hw]
  exact ⟨_, rfl⟩

theorem witness_PureResponsesDependOnTheRequestAlone :
    draws (.stFull 1#8 2#8 3#8) = false ∧ (∃ t, exec (.stFull 1#8 2#8 3#8) State.reset = .next t) ∧
      ∃ t', exec (.stFull 1#8 2#8 3#8) (at0 5#16) = .next t' := ⟨rfl, ⟨_, rfl⟩, ⟨_, rfl⟩⟩

theorem witness_StepRunsTheDecodedRequest :
    fetch State.reset = none ∧
      (∃ s1, fetch (presenting 5#16 { hdr := 0x06#8, name := ['b', 'e', 'e', 'p'] }) =
        some (.request { hdr := 0x06#8, name := ['b', 'e', 'e', 'p'] }, s1)) ∧
      decode (.request { hdr := 0x06#8, name := ['b', 'e', 'e', 'p'] }) = .ok (.encodeCommand ['b', 'e', 'e', 'p'] 0#16) :=
  ⟨rfl, ⟨_, rfl⟩, by decide⟩

theorem witness_ArbitrationMayChooseAnyRequester :
    (∃ s1 e, fetch (presenting 5#16 { hdr := 0x04#8 }) = some (e, s1)) ∧
      (presenting 5#16 { hdr := 0x04#8 }).requesters[0]? = some [Event.request { hdr := 0x04#8 }] := ⟨⟨_, _, rfl⟩, rfl⟩

theorem witness_ResetZeroesSeq :
    ∃ s1, fetch { at0 5#16 with requesters := [[.reset .sessionStart]] } = some (.reset .sessionStart, s1) := ⟨_, rfl⟩

/-- Three sources, the reset at the first and the last of them; a request that decodes and one that does not. -/
theorem witness_ResetFallsBeforeOrAfterARequest :
    (let s : State := { at0 5#16 with
      requesters := [[.reset .powerOn], [.request { hdr := 0x04#8 }, .reset .powerOn], [.request { hdr := 0x16#8 }]] }
     s.requesters[1]? = some [.request { hdr := 0x04#8 }, .reset .powerOn] ∧
      s.requesters[2]? = some [.request { hdr := 0x16#8 }] ∧ s.requesters[0]? = some [.reset .powerOn]) ∧
      decodeRequest { hdr := 0x04#8 } = .ok .seqNext ∧
      decodeRequest { hdr := 0x16#8 } = .error (.illegalHeader 0x16#8) := by decide

theorem witness_EveryStepCompletes : State.reset.pending = 0 ∧ (presenting 5#16 { hdr := 0x00#8 }).pending = 1 := by decide

theorem witness_EveryPresentedEventIsAcceptedOnce :
    [Event.request { hdr := 0x04#8 }] ∈ (presenting 5#16 { hdr := 0x04#8 }).requesters ∧
      ∃ tr t, trace 1 (presenting 5#16 { hdr := 0x04#8 }) = some (tr, t) ∧
        ∃ resp, (Event.request { hdr := 0x04#8 }, resp) ∈ tr :=
  ⟨by decide, _, _, rfl, _, List.mem_singleton.mpr rfl⟩

theorem witness_StepKeepsResponsesWellFormed :
    Inv (presenting 5#16 { hdr := 0x04#8 }) ∧ ∃ t, step (presenting 5#16 { hdr := 0x04#8 }) = .next t :=
  ⟨fun _ h => (by cases h), _, rfl⟩

theorem witness_EveryResponseOfARunIsWellFormed :
    ∃ tr t resp, trace 1 { State.reset with requesters := [[.request { hdr := 0x04#8 }]], grants := [3] } = some (tr, t) ∧
      (Event.request { hdr := 0x04#8 }, some resp) ∈ tr := ⟨_, _, _, rfl, List.mem_singleton.mpr rfl⟩

end Sys2Proof.Tests
end

section
/-! What any instruction does to the state, said once for the twelve of them, and the statements of 10_state.md on
`SEQ`, pure responses, steps and resets. -/

namespace Sys2Proof.Machine

/-! ## The two shapes of a meaning (R23, R28, R46) -/

/-- The meaning writes the response port and nothing else, with a response that is the same from every state. -/
def AnswersAlone (meaning : State → Outcome) : Prop :=
  ∃ resp, ∀ s, meaning s = .next (s.setResponse resp)

/-- The meaning draws one number, and its response depends on the number drawn alone. -/
def DrawsOnce (meaning : State → Outcome) : Prop :=
  ∃ answer : Half → Response, ∀ s,
    meaning s = .next ((s.setSeq (nextSeq s.seq)).setResponse (answer (nextSeq s.seq)))

theorem answersAlone_respond (result : Result) : AnswersAlone (respond result) := ⟨_, fun _ => rfl⟩

theorem answersAlone_raise (e : Status) : AnswersAlone (raise e) := ⟨_, fun _ => rfl⟩

theorem answersAlone_resolveIn (p : Params) (name : CommandName) : AnswersAlone (resolveIn p name) := by
  unfold resolveIn
  cases lookup (catalog p) name with
  | none => exact answersAlone_raise _
  | some e => exact answersAlone_respond _

/-- A test of the operands alone keeps the shape. -/
theorem answersAlone_ite (c : Prop) [Decidable c] {yes no : State → Outcome} (hy : AnswersAlone yes)
    (hn : AnswersAlone no) : AnswersAlone (fun s => if c then yes s else no s) := by
  by_cases hc : c
  · simpa only [hc, if_true] using hy
  · simpa only [hc, if_false] using hn

theorem answersAlone_crcIn (p : Params) (data : Bytes) : AnswersAlone (crcIn p data) :=
  answersAlone_ite _ (answersAlone_respond _) (answersAlone_raise _)

theorem answersAlone_chunkIn (p : Params) (data : Bytes) : AnswersAlone (chunkIn p data) :=
  answersAlone_ite _ (answersAlone_respond _) (answersAlone_raise _)

theorem answersAlone_buildIn (p : Params) (name : CommandName) (dur seqv : Half) :
    AnswersAlone (buildIn p name dur seqv) := by
  unfold buildIn
  cases lookup (catalog p) name with
  | none => exact answersAlone_raise _
  | some e =>
    dsimp only
    cases encodePayload e dur with
    | error err => exact answersAlone_raise err
    | ok payload => exact answersAlone_respond _

theorem answersAlone_encodeCommandIn {p : Params} {name : CommandName} (dur : Half)
    (hl : lookup (catalog p) name = none) : AnswersAlone (encodeCommandIn p name dur) := by
  unfold encodeCommandIn
  rw [hl]
  exact answersAlone_raise _

theorem drawsOnce_encodeCommandIn {p : Params} {name : CommandName} {e : CommandSpec} (dur : Half)
    (hl : lookup (catalog p) name = some e) : DrawsOnce (encodeCommandIn p name dur) := by
  unfold encodeCommandIn
  rw [hl]
  dsimp only
  cases encodePayload e dur with
  | error err => exact ⟨fun _ => ⟨err, none⟩, fun _ => rfl⟩
  | ok payload => exact ⟨fun v => ⟨.ok, some (.frame (chunk (layout v e.opcode payload)))⟩, fun _ => rfl⟩

theorem drawsOnce_execSeqNext : DrawsOnce execSeqNext := ⟨fun v => ⟨.ok, some (.seqn v)⟩, fun _ => rfl⟩

/-- This hardware's catalog has an entry of exactly the registered names (R101). -/
theorem lookup_hw_isSome (name : CommandName) : (lookup (catalog Config.hw) name).isSome = registered name := by
  rw [lookup_hw, registered]
  split_ifs with hb hf
  · simp [hb]
  · simp [hf]
  · simp [hb, hf]

theorem answersAlone_execEncodeCommand {name : CommandName} (dur : Half) (h : registered name = false) :
    AnswersAlone (execEncodeCommand name dur) := by
  rw [← lookup_hw_isSome, Option.isSome_eq_false_iff, Option.isNone_iff_eq_none] at h
  exact answersAlone_encodeCommandIn dur h

theorem drawsOnce_execEncodeCommand {name : CommandName} (dur : Half) (h : registered name = true) :
    DrawsOnce (execEncodeCommand name dur) := by
  obtain ⟨e, he⟩ := Option.isSome_iff_exists.mp ((lookup_hw_isSome name).trans h)
  exact drawsOnce_encodeCommandIn dur he

/-! ## Everything an instruction can do -/

/-- Every instruction but the reserved ST_TERM3 completes from every state, and is of one of the two shapes: it answers
alone, or it draws once. -/
theorem exec_shape (i : Instr) :
    (∃ d0 d1 d2, i = .stTerm3 d0 d1 d2) ∨ (draws i = false ∧ AnswersAlone (exec i)) ∨
      (draws i = true ∧ DrawsOnce (exec i)) := by
  cases i with
  | resolve name => exact .inr (.inl ⟨rfl, answersAlone_resolveIn _ name⟩)
  | crc data => exact .inr (.inl ⟨rfl, answersAlone_crcIn _ data⟩)
  | build name dur seqv => exact .inr (.inl ⟨rfl, answersAlone_buildIn _ name dur seqv⟩)
  | seqNext => exact .inr (.inr ⟨rfl, drawsOnce_execSeqNext⟩)
  | chunk data => exact .inr (.inl ⟨rfl, answersAlone_chunkIn _ data⟩)
  | encodeCommand name dur =>
    cases h : registered name with
    | false => exact .inr (.inl ⟨h, answersAlone_execEncodeCommand dur h⟩)
    | true => exact .inr (.inr ⟨h, drawsOnce_execEncodeCommand dur h⟩)
  | beep dur => exact .inr (.inr ⟨rfl, drawsOnce_execEncodeCommand (name := Config.nameBeep) dur rfl⟩)
  | flash dur => exact .inr (.inr ⟨rfl, drawsOnce_execEncodeCommand (name := Config.nameFlash) dur rfl⟩)
  | stFull d0 d1 d2 => exact .inr (.inl ⟨rfl, answersAlone_respond _⟩)
  | stTerm1 d0 => exact .inr (.inl ⟨rfl, answersAlone_respond _⟩)
  | stTerm2 d0 d1 => exact .inr (.inl ⟨rfl, answersAlone_respond _⟩)
  | stTerm3 d0 d1 d2 => exact .inl ⟨d0, d1, d2, rfl⟩

theorem exec_stTerm3_ne_next (d0 d1 d2 : Byte) (s t : State) : exec (.stTerm3 d0 d1 d2) s ≠ .next t := by
  intro h; cases h

/-- An instruction that completes from some state without drawing answers alone. -/
theorem answersAlone_of_exec_next {i : Instr} {s t : State} (hd : draws i = false) (h : exec i s = .next t) :
    AnswersAlone (exec i) := by
  obtain ⟨d0, d1, d2, rfl⟩ | ⟨-, alone⟩ | ⟨hd', -⟩ := exec_shape i
  · exact absurd h (exec_stTerm3_ne_next d0 d1 d2 s t)
  · exact alone
  · simp [hd] at hd'

/-- What a completed instruction leaves: the response written and, for a draw, the next number in `SEQ`. -/
theorem exec_next_cases {i : Instr} {s t : State} (h : exec i s = .next t) :
    (draws i = false ∧ ∃ resp, t = s.setResponse resp) ∨
      (draws i = true ∧ ∃ resp, t = (s.setSeq (nextSeq s.seq)).setResponse resp) := by
  obtain ⟨d0, d1, d2, rfl⟩ | ⟨hd, resp, eq⟩ | ⟨hd, answer, eq⟩ := exec_shape i
  · exact absurd h (exec_stTerm3_ne_next d0 d1 d2 s t)
  · rw [eq] at h; cases h; exact .inl ⟨hd, resp, rfl⟩
  · rw [eq] at h; cases h; exact .inr ⟨hd, _, rfl⟩

/-- What is presented and the choices of arbitration are no instruction's to change (R47). -/
theorem exec_keeps_environment {i : Instr} {s t : State} (h : exec i s = .next t) :
    t.requesters = s.requesters ∧ t.grants = s.grants := by
  obtain ⟨-, resp, rfl⟩ | ⟨-, resp, rfl⟩ := exec_next_cases h <;> exact ⟨rfl, rfl⟩

/-- The instruction of a request always completes: no request decodes to ST_TERM3. -/
theorem exec_operandsOf_completes (op : Op) (r : Request) (s : State) : ∃ t, exec (operandsOf op r) s = .next t := by
  obtain ⟨d0, d1, d2, eq⟩ | ⟨-, resp, eq⟩ | ⟨-, answer, eq⟩ := exec_shape (operandsOf op r)
  · cases op <;> cases eq
  · exact ⟨_, eq s⟩
  · exact ⟨_, eq s⟩

/-! ## A step, by what it accepts -/

theorem step_of_fetch_none {s : State} (h : fetch s = none) : step s = .next s := by
  simp only [step, h]

theorem step_of_fetch_reset {s s1 : State} {cause : ResetCause} (h : fetch s = some (.reset cause, s1)) :
    step s = .next (resetBy cause s1) := by
  simp only [step, h]

theorem step_of_decoded {s s1 : State} {r : Request} {i : Instr} (h : fetch s = some (.request r, s1))
    (hd : decodeRequest r = .ok i) : step s = exec i s1 := by
  simp only [step, h, hd]

theorem step_of_illegal {s s1 : State} {r : Request} {why : Reject} (h : fetch s = some (.request r, s1))
    (hd : decodeRequest r = .error why) : step s = .next (s1.setResponse ⟨.reqRefused, none⟩) := by
  simp only [step, h, hd, raise]

/-- A request, legal or not, is performed in one step on the state left when it was accepted, and leaves what is
presented and the choices of arbitration as they were then. -/
theorem step_of_fetch_request {s s1 : State} {r : Request} (h : fetch s = some (.request r, s1)) :
    ∃ t, step s = .next t ∧ (∀ i, decodeRequest r = .ok i → exec i s1 = .next t) ∧
      (∀ why, decodeRequest r = .error why → t = { s1 with response := some ⟨.reqRefused, none⟩ }) ∧
      t.requesters = s1.requesters ∧ t.grants = s1.grants := by
  cases hd : decodeRequest r with
  | error why => exact ⟨_, step_of_illegal h hd, nofun, fun _ _ => rfl, rfl, rfl⟩
  | ok i =>
    obtain ⟨op, -, rfl⟩ := decodeRequest_ok.mp hd
    obtain ⟨t, ht⟩ := exec_operandsOf_completes op r s1
    exact ⟨t, (step_of_decoded h hd).trans ht, fun _ hi => by cases hi; exact ht, nofun, exec_keeps_environment ht⟩

/-! ## Arbitration can choose any requester -/

/-- Any requester that presents something is chosen by some number. -/
theorem exists_choice {rs : List (List Event)} {i : Nat} {e : Event} {es : List Event}
    (h : rs[i]? = some (e :: es)) : ∃ n, takeFrom rs n = some (e, rs.set i es) := by
  induction rs generalizing i with
  | nil => simp at h
  | cons stream rest ih =>
    cases i with
    | zero =>
      obtain rfl : stream = e :: es := by simpa using h
      exact ⟨0, rfl⟩
    | succ j =>
      obtain ⟨n, hn⟩ := ih (i := j) (by simpa using h)
      cases stream with
      | nil => exact ⟨n, by simp [takeFrom, hn]⟩
      | cons a as => exact ⟨n + 1, by simp [takeFrom, hn]⟩

/-- A choice that stands next in `grants` decides what is accepted. -/
theorem fetch_of_choice {s : State} {n : Nat} {g : List Nat} {e : Event} {rs rs' : List (List Event)}
    (hr : s.requesters = rs) (hg : s.grants = n :: g) (h : takeFrom rs n = some (e, rs')) :
    fetch s = some (e, { s with requesters := rs', grants := g }) := by
  simp [fetch, hr, hg, h]

/-! ## The statements -/

/-- Settles O40, from the two shapes of a meaning. -/
theorem onlyDrawsWriteSeq : Obligations.OnlyDrawsWriteSeq := by
  intro i s t h
  obtain ⟨hd, resp, rfl⟩ | ⟨hd, resp, rfl⟩ := exec_next_cases h
  · exact ⟨fun hd' => by simp [hd] at hd', fun _ => rfl, rfl, rfl, rfl⟩
  · exact ⟨fun _ => nextSeq_toNat s.seq, fun hd' => by simp [hd] at hd', rfl, rfl, rfl⟩

/-- Settles O42: without a draw there is one response for all states. -/
theorem pureResponsesDependOnTheRequestAlone : Obligations.PureResponsesDependOnTheRequestAlone := by
  intro i s s' t t' hd h h'
  obtain ⟨resp, eq⟩ := answersAlone_of_exec_next hd h
  rw [eq] at h h'
  cases h; cases h'
  rfl

/-- Settles O47: the choices are those of the two sources, in the one order and in the other. -/
theorem resetFallsBeforeOrAfterARequest : Obligations.ResetFallsBeforeOrAfterARequest := by
  intro s a b r cause es fs hab ha hb
  constructor
  · have hb' : (s.requesters.set a es)[b]? = some (.reset cause :: fs) := by rwa [List.getElem?_set_ne hab]
    obtain ⟨n, hn⟩ := exists_choice ha
    obtain ⟨m, hm⟩ := exists_choice hb'
    refine ⟨n, m, fun g => ?_⟩
    obtain ⟨t, ht, legal, illegal, hreq, hgr⟩ :=
      step_of_fetch_request (s := { s with grants := n :: m :: g }) (fetch_of_choice rfl rfl hn)
    exact ⟨t, _, ht, legal, illegal, step_of_fetch_reset (fetch_of_choice hreq hgr hm), rfl⟩
  · have ha' : (s.requesters.set b fs)[a]? = some (.request r :: es) := by rwa [List.getElem?_set_ne hab.symm]
    obtain ⟨n, hn⟩ := exists_choice hb
    obtain ⟨m, hm⟩ := exists_choice ha'
    refine ⟨n, m, fun g => ?_⟩
    have first := step_of_fetch_reset (s := { s with grants := n :: m :: g }) (fetch_of_choice rfl rfl hn)
    obtain ⟨u, hu, legal, illegal, -, -⟩ := step_of_fetch_request
      (s := resetBy cause { s with requesters := s.requesters.set b fs, grants := m :: g }) (fetch_of_choice rfl rfl hm)
    exact ⟨_, u, first, rfl, hu, legal, illegal⟩

/-- Settles O43, by the rules of a step and what acceptance leaves alone. -/
theorem stepRunsTheDecodedRequest : Obligations.StepRunsTheDecodedRequest :=
  ⟨fun _ => step_of_fetch_none,
    fun _ _ _ _ h hd => ⟨step_of_decoded h hd, fetch_seq h, fetch_response h⟩⟩

/-- Settles O46, by the rule of a step that accepts a reset. -/
theorem resetZeroesSeq : Obligations.ResetZeroesSeq :=
  ⟨rfl, rfl, fun _ _ _ h => step_of_fetch_reset h⟩

/-- Settles O51: no response stands at the port after reset. -/
theorem resetMeetsTheResponseInvariant : Obligations.ResetMeetsTheResponseInvariant := by
  intro r h
  cases h

end Sys2Proof.Machine
end

section
/-! The checksum as a serial register, the chunks of a frame by index, and arbitration: which events are accepted, in
which order, and what their draws receive (the statements of 20_memory.md). -/

namespace Sys2Proof.Machine

/-! ## The checksum, one bit at a time (R43, R120) -/

/-- A round with the message word `x` still mixed into the accumulator takes `x`'s top bit as the serial register would,
and leaves the rest of `x` mixed in, shifted. -/
theorem crcRound_xor_message (a x : Word) : crcRound (a ^^^ x) = serialStep a (x.getLsbD 31) ^^^ (x <<< 1) := by
  have move_poly : (a <<< 1) ^^^ (x <<< 1) ^^^ Config.POLY = (a <<< 1) ^^^ Config.POLY ^^^ (x <<< 1) := by
    rw [BitVec.xor_assoc, BitVec.xor_comm (x <<< 1), ← BitVec.xor_assoc]
  unfold crcRound serialStep
  rw [BitVec.getLsbD_xor, BitVec.shiftLeft_xor_distrib]
  cases a.getLsbD 31 <;> cases x.getLsbD 31 <;> simp [move_poly]

/-- `k` rounds consume the top `k` bits of the message word, highest first. -/
theorem crcRounds_xor_message (k : Nat) (a x : Word) :
    crcRounds k (a ^^^ x) =
      ((List.range k).map (fun j => (x <<< j).getLsbD 31)).foldl serialStep a ^^^ (x <<< k) := by
  induction k generalizing a x with
  | zero => simp [crcRounds]
  | succ k ih =>
    rw [crcRounds, crcRound_xor_message, ih, List.range_succ_eq_map]
    simp [← BitVec.shiftLeft_add, Nat.add_comm 1, Function.comp_def]

/-- The top bits of a byte put at `ACC[31:24]` are the byte's bits, bit 7 first. -/
theorem topBits_eq_byteBits (b : Byte) :
    (List.range 8).map (fun j => ((b.setWidth 32 <<< 24 : Word) <<< j).getLsbD 31) = byteBits b := by
  simp [List.range, List.range.loop, byteBits]

theorem crcByte_eq_serial (a : Word) (b : Byte) : crcByte a b = (byteBits b).foldl serialStep a := by
  have used_up : (b.setWidth 32 <<< 24 : Word) <<< 8 = 0 := by
    rw [← BitVec.shiftLeft_add]; exact BitVec.shiftLeft_eq_zero (by decide)
  rw [crcByte, crcRounds_xor_message, topBits_eq_byteBits, used_up]
  simp

/-- Settles O7: each byte's rounds are its eight serial steps. -/
theorem checksumIsTheSerialBitRegister : Obligations.ChecksumIsTheSerialBitRegister := by
  intro bs
  rw [checksum, messageBits, List.foldl_flatMap, funext₂ crcByte_eq_serial]
  rfl

/-! ## The chunks of a frame, by index (R44, R190) -/

/-- Settles O20, by the recursion of the encoder: chunk 0 is the one it emits, chunk `k + 1` is chunk `k` of the rest. -/
theorem chunkBytesStandInIndexOrder : Obligations.ChunkBytesStandInIndexOrder := by
  intro bs k hk
  induction bs using chunk.induct generalizing k with
  | case1 b0 b1 b2 rest ih =>
    rw [chunk]
    cases k with
    | zero => simp [emitFull, Config.ST_FULL]
    | succ k =>
      have remain : (b0 :: b1 :: b2 :: rest).length - 3 * (k + 1) = rest.length - 3 * k := by
        simp only [List.length_cons]; omega
      have later : 3 * k < rest.length := by simp only [List.length_cons] at hk; omega
      have skip : (emitFull b0 b1 b2 ++ chunk rest).drop (4 * (k + 1)) = (chunk rest).drop (4 * k) := rfl
      rw [remain, skip, ih k later]
      rfl
  | case2 b0 b1 =>
    obtain rfl : k = 0 := by simp at hk; omega
    rfl
  | case3 b0 =>
    obtain rfl : k = 0 := by simp at hk; omega
    rfl
  | case4 => simp at hk

/-! ## Repetition (R46) -/

theorem nextSeq_ne_self (v : Half) : nextSeq v ≠ v := by
  intro h
  have := congrArg BitVec.toNat h
  rw [nextSeq_toNat] at this
  omega

/-- Settles O41: an answer alone writes the same response again; a draw moves `SEQ` on. -/
theorem onlyDrawsAreNotIdempotent : Obligations.OnlyDrawsAreNotIdempotent := by
  intro i s t h
  constructor
  · intro hd
    obtain ⟨resp, eq⟩ := answersAlone_of_exec_next hd h
    rw [eq] at h ⊢
    cases h
    rfl
  · intro hd again
    obtain ⟨hd', -⟩ | ⟨-, resp, eq⟩ := exec_next_cases again
    · simp [hd] at hd'
    · exact nextSeq_ne_self t.seq (congrArg State.seq eq).symm

/-! ## What arbitration accepts (R47, R241) -/

theorem fetch_takes_next {s s1 : State} {e : Event} (h : fetch s = some (e, s1)) :
    ∃ i es, s.requesters[i]? = some (e :: es) ∧
      s1 = { s with requesters := s.requesters.set i es, grants := s.grants.tail } := by
  obtain ⟨rs, taken, rfl⟩ := fetch_some h
  obtain ⟨i, es, presented, rfl⟩ := takeFrom_some taken
  exact ⟨i, es, presented, rfl⟩

/-- Settles O45, by what a choice takes and the choice that takes from a given requester. -/
theorem arbitrationMayChooseAnyRequester : Obligations.ArbitrationMayChooseAnyRequester := by
  refine ⟨fun s s1 e h => fetch_takes_next h, fun s i e es h => ?_⟩
  obtain ⟨n, hn⟩ := exists_choice h
  exact ⟨n, fun g => fetch_of_choice rfl rfl hn⟩

/-! ## A run accepts everything that is presented (R272) -/

theorem pending_eq_length_flatten (s : State) : s.pending = s.requesters.flatten.length :=
  List.length_flatten.symm

/-- What one requester's next event takes from what all of them present. -/
theorem flatten_perm_cons_set {rs : List (List Event)} {i : Nat} {e : Event} {es : List Event}
    (h : rs[i]? = some (e :: es)) : rs.flatten.Perm (e :: (rs.set i es).flatten) := by
  induction rs generalizing i with
  | nil => simp at h
  | cons stream rest ih =>
    cases i with
    | zero =>
      obtain rfl : stream = e :: es := by simpa using h
      exact .refl _
    | succ j => exact ((ih (i := j) (by simpa using h)).append_left stream).trans List.perm_middle

theorem fetch_perm {s s1 : State} {e : Event} (h : fetch s = some (e, s1)) :
    s.requesters.flatten.Perm (e :: s1.requesters.flatten) := by
  obtain ⟨i, es, presented, rfl⟩ := fetch_takes_next h
  exact flatten_perm_cons_set presented

theorem fetch_pending {s s1 : State} {e : Event} (h : fetch s = some (e, s1)) : s.pending = s1.pending + 1 := by
  rw [pending_eq_length_flatten, pending_eq_length_flatten, (fetch_perm h).length_eq, List.length_cons]

/-- A requester's own order is kept if the accepted event comes before an order that keeps what is left of every stream. -/
theorem sublist_cons_of_set {rs : List (List Event)} {i : Nat} {e : Event} {es accepted : List Event}
    (h : rs[i]? = some (e :: es)) (kept : ∀ stream ∈ rs.set i es, stream.Sublist accepted) :
    ∀ stream ∈ rs, stream.Sublist (e :: accepted) := by
  intro stream hs
  obtain ⟨j, hj⟩ := List.mem_iff_getElem?.mp hs
  by_cases hij : i = j
  · subst hij
    obtain rfl : stream = e :: es := by simpa [hj] using h
    have lt : i < rs.length := (List.getElem?_eq_some_iff.mp hj).1
    exact (kept es (List.mem_set lt es)).cons_cons e
  · have : (rs.set i es)[j]? = some stream := by rwa [List.getElem?_set_ne hij]
    exact (kept stream (List.mem_of_getElem? this)).cons e

theorem fetch_keeps_order {s s1 : State} {e : Event} {accepted : List Event} (h : fetch s = some (e, s1))
    (kept : ∀ stream ∈ s1.requesters, stream.Sublist accepted) :
    ∀ stream ∈ s.requesters, stream.Sublist (e :: accepted) := by
  obtain ⟨i, es, presented, rfl⟩ := fetch_takes_next h
  exact sublist_cons_of_set presented kept

/-- A step that accepts an event completes, leaves what is presented as it was then, and answers a request. -/
theorem step_of_fetch_some {s s1 : State} {e : Event} (h : fetch s = some (e, s1)) :
    ∃ t, step s = .next t ∧ t.requesters = s1.requesters ∧ (∀ r, e = .request r → t.response.isSome = true) := by
  cases e with
  | reset cause => exact ⟨_, step_of_fetch_reset h, rfl, nofun⟩
  | request r =>
    obtain ⟨t, ht, legal, illegal, hreq, -⟩ := step_of_fetch_request h
    refine ⟨t, ht, hreq, fun _ _ => ?_⟩
    cases hd : decodeRequest r with
    | error why => simp [illegal why hd]
    | ok i => obtain ⟨-, resp, rfl⟩ | ⟨-, resp, rfl⟩ := exec_next_cases (legal i hd) <;> rfl

/-- Settles O49, by induction on how many events are presented. -/
theorem everyPresentedEventIsAcceptedOnce : Obligations.EveryPresentedEventIsAcceptedOnce := by
  intro s
  induction hn : s.pending generalizing s with
  | zero =>
    have none_left : s.requesters.flatten = [] :=
      List.eq_nil_of_length_eq_zero ((pending_eq_length_flatten s).symm.trans hn)
    refine ⟨[], s, rfl, hn, by simp [none_left], fun stream hs => ?_, nofun⟩
    simp [List.flatten_eq_nil_iff.mp none_left stream hs]
  | succ n ih =>
    cases hf : fetch s with
    | none =>
      have : s.requesters.flatten = [] := List.flatten_eq_nil_iff.mpr (fetch_none.mp hf)
      simp [pending_eq_length_flatten, this] at hn
    | some accepted =>
      obtain ⟨e, s1⟩ := accepted
      obtain ⟨t, ht, hreq, answered⟩ := step_of_fetch_some hf
      have left : t.pending = n := by
        rw [State.pending, hreq]
        exact Nat.succ.inj ((fetch_pending hf).symm.trans hn)
      obtain ⟨tr, u, run, done, perm, kept, answeredTail⟩ := ih t left
      rw [hreq] at perm kept
      refine ⟨(e, t.response) :: tr, u, by rw [trace_of_step n hf ht, run]; rfl, done,
        (perm.cons e).trans (fetch_perm hf).symm, fetch_keeps_order hf kept, fun r resp hmem => ?_⟩
      obtain head | tail := List.mem_cons.mp hmem
      · cases head; exact answered r rfl
      · exact answeredTail r resp tail

/-! ## The number a draw receives (R173) -/

/-- The raw bytes are read back from their frame (R194). -/
theorem recover_chunk (bs : Bytes) : recover (chunk bs) = bs := by
  induction bs using chunk.induct with
  | case1 b0 b1 b2 rest ih => rw [chunk, recover_emitFull, ih]
  | case2 b0 b1 => rfl
  | case3 b0 => rfl
  | case4 => rfl

theorem ofBe16_hiByte_loByte (v : Half) : ofBe16 (hiByte v) (loByte v) = v := by
  exact (BitVec.extractLsb'_append_extractLsb'_eq_extractLsb' rfl).trans BitVec.extractLsb'_eq_self

/-- The sequence field of a packet is the number it was laid out with (R69, R140). -/
theorem pktSeq_layout (v opc : Half) (payload : Bytes) : pktSeq (layout v opc payload) = v := by
  rw [layout_eq]
  exact ofBe16_hiByte_loByte v

/-- Every payload of this hardware's catalog is a duration (R101, R102). -/
theorem encoder_length_of_lookup_hw {name : CommandName} {e : CommandSpec}
    (h : lookup (catalog Config.hw) name = some e) (dur : Half) : (e.encoder dur).length = 2 := by
  rw [lookup_hw] at h
  split_ifs at h <;> cases h <;> rfl

theorem handedOut_of_execEncodeCommand {name : CommandName} {dur : Half} {s t : State} (hr : registered name = true)
    (h : execEncodeCommand name dur s = .next t) : t.response.bind handedOut = some t.seq := by
  obtain ⟨unknown, -⟩ | ⟨e, found, ⟨tooLarge, -⟩ | ⟨-, rfl⟩⟩ := encodeCommandIn_cases h
  · simp [← lookup_hw_isSome, unknown] at hr
  · simp [encoder_length_of_lookup_hw found] at tooLarge
  · simp [handedOut, recover_chunk, pktSeq_layout]

/-- The response to a draw hands out the number that is then in `SEQ`. -/
theorem handedOut_of_draw {i : Instr} {s t : State} (hd : draws i = true) (h : exec i s = .next t) :
    t.response.bind handedOut = some t.seq := by
  cases i with
  | seqNext => cases h; rfl
  | encodeCommand name dur => exact handedOut_of_execEncodeCommand hd h
  | beep dur => exact handedOut_of_execEncodeCommand (name := Config.nameBeep) rfl h
  | flash dur => exact handedOut_of_execEncodeCommand (name := Config.nameFlash) rfl h
  | resolve | crc | build | chunk | stFull | stTerm1 | stTerm2 | stTerm3 => cases hd

/-- A request that is a draw decodes to an instruction that draws. -/
theorem isDraw_request {r : Request} (h : isDraw (.request r) = true) :
    ∃ i, decodeRequest r = .ok i ∧ draws i = true := by
  simp only [isDraw] at h
  split at h
  · next i hi => exact ⟨i, hi, h⟩
  · cases h

/-- A step that accepts a draw: `SEQ` moves on by one, and the answer, fixed by the request and the number drawn, hands
that number out. -/
theorem step_of_draw {r : Request} (hd : isDraw (.request r) = true) :
    ∃ answer : Half → Response, ∀ s s1, fetch s = some (.request r, s1) →
      step s = .next ((s1.setSeq (nextSeq s1.seq)).setResponse (answer (nextSeq s1.seq))) ∧
      drawn (.request r, some (answer (nextSeq s1.seq))) = some (nextSeq s1.seq) := by
  obtain ⟨i, hi, hdi⟩ := isDraw_request hd
  obtain ⟨d0, d1, d2, rfl⟩ | ⟨hdi', -⟩ | ⟨-, answer, eq⟩ := exec_shape i
  · cases hdi
  · simp [hdi] at hdi'
  · refine ⟨answer, fun s s1 hf => ⟨(step_of_decoded hf hi).trans (eq s1), ?_⟩⟩
    simpa [drawn, hd] using handedOut_of_draw hdi (eq s1)

/-! ## Draws in any order of their requesters (R174) -/

/-- Requesters that each present one draw are served in any order of them that names none twice. -/
theorem trace_serves_order {order : List Nat} (nodup : order.Nodup) (s : State)
    (present : ∀ i ∈ order, ∃ r, s.requesters[i]? = some [.request r] ∧ isDraw (.request r) = true) :
    ∃ g tr t, trace order.length { s with grants := g } = some (tr, t) ∧ tr.length = order.length ∧
      ∀ (k i : Nat), order[k]? = some i → ∃ r resp v, s.requesters[i]? = some [.request r] ∧
        tr[k]? = some (.request r, resp) ∧ drawn (.request r, resp) = some v ∧
        v.toNat = (s.seq.toNat + k + 1) % 65536 := by
  induction order generalizing s with
  | nil => exact ⟨[], [], _, rfl, rfl, nofun⟩
  | cons i order ih =>
    obtain ⟨fresh, nodup⟩ := List.nodup_cons.mp nodup
    obtain ⟨r, hr, hd⟩ := present i List.mem_cons_self
    obtain ⟨n, hn⟩ := exists_choice hr
    obtain ⟨answer, served⟩ := step_of_draw hd
    have untouched : ∀ j ∈ order, (s.requesters.set i [])[j]? = s.requesters[j]? := fun j hj =>
      List.getElem?_set_ne (ne_of_mem_of_not_mem hj fresh).symm
    obtain ⟨g, tr, t, run, len, numbers⟩ := ih nodup
      { s with requesters := s.requesters.set i [], seq := nextSeq s.seq, response := some (answer (nextSeq s.seq)) }
      (fun j hj => by rw [untouched j hj]; exact present j (List.mem_cons_of_mem i hj))
    have accepts := fetch_of_choice (s := { s with grants := n :: g }) rfl rfl hn
    obtain ⟨step_eq, drawn_eq⟩ := served _ _ accepts
    refine ⟨n :: g, (.request r, some (answer (nextSeq s.seq))) :: tr, t, ?_, by simp [len], fun k j hk => ?_⟩
    · rw [List.length_cons, trace_of_step _ accepts step_eq]
      exact congrArg (Option.map _) run
    · cases k with
      | zero =>
        obtain rfl : i = j := by simpa using hk
        exact ⟨r, _, _, hr, rfl, drawn_eq, nextSeq_toNat s.seq⟩
      | succ k =>
        obtain ⟨r', resp, v, hr', htr, hv, hval⟩ := numbers k j (by simpa using hk)
        rw [untouched j (List.mem_of_getElem? (by simpa using hk))] at hr'
        refine ⟨r', resp, v, hr', by simpa using htr, hv, ?_⟩
        simp only [nextSeq_toNat] at hval
        omega

/-- Settles O54: each requester of the order is chosen in turn. -/
theorem anyRequesterMayReceiveAnyNumber : Obligations.AnyRequesterMayReceiveAnyNumber := by
  intro s rs order hreq hdraw perm
  have present : ∀ i ∈ order, ∃ r, s.requesters[i]? = some [.request r] ∧ isDraw (.request r) = true := by
    intro i hi
    have lt : i < rs.length := List.mem_range.mp (perm.subset hi)
    exact ⟨rs[i], by simp [hreq, lt], hdraw _ (List.getElem_mem lt)⟩
  obtain ⟨g, tr, t, run, len, numbers⟩ := trace_serves_order (perm.nodup_iff.mpr List.nodup_range) s present
  rw [perm.length_eq, List.length_range] at run len
  refine ⟨g, tr, t, run, len, fun k i hk => ?_⟩
  obtain ⟨r, resp, v, hr, rest⟩ := numbers k i hk
  exact ⟨r, resp, v, by simpa [hreq] using hr, rest⟩

end Sys2Proof.Machine
end

section
/-! The encodings of 30_encoding.md: requests, commands and chunks decoded and encoded, the assembler's lines, the fields
of a packet, the status bytes of a frame, and the responses that the instructions and steps of this hardware give. -/

namespace Sys2Proof

/-! ## Decoding and encoding (R60, R62, R70, R73) -/

theorem decode_encode (i : Instr) : decode (encode i) = .ok i := by
  cases i with
  | resolve name => exact decodeRequest_ok.mpr ⟨.resolve, rfl, rfl⟩
  | crc data => exact decodeRequest_ok.mpr ⟨.crc, rfl, rfl⟩
  | build name dur seqv => exact decodeRequest_ok.mpr ⟨.build, rfl, rfl⟩
  | seqNext => exact decodeRequest_ok (r := { hdr := opHeader .seqNext }).mpr ⟨.seqNext, rfl, rfl⟩
  | chunk data => exact decodeRequest_ok.mpr ⟨.chunk, rfl, rfl⟩
  | encodeCommand name dur => exact decodeRequest_ok.mpr ⟨.encodeCommand, rfl, rfl⟩
  | beep | flash | stFull | stTerm1 | stTerm2 | stTerm3 => rfl

theorem decode_of_encode {i : Instr} {w : Words} (h : encode i = w) : decode w = .ok i := h ▸ decode_encode i

/-- A command opcode decodes to the one instruction that has it (R73). -/
theorem decodeCommand_eq_ok {opc dur : Half} {i : Instr} :
    decodeCommand opc dur = .ok i ↔ encode i = .command opc dur := by
  refine ⟨fun h => ?_, decode_of_encode⟩
  unfold decodeCommand at h
  split_ifs at h with beep flash
  · cases h; rw [beep]; rfl
  · cases h; rw [flash]; rfl

/-- A chunk decodes to the one instruction that emits it; the padding it has is 0x00 (R70). -/
theorem decodeChunk_eq_ok {status d0 d1 d2 : Byte} {i : Instr} :
    decodeChunk status d0 d1 d2 = .ok i ↔ encode i = .chunk status d0 d1 d2 := by
  refine ⟨fun h => ?_, decode_of_encode⟩
  unfold decodeChunk at h
  split_ifs at h with full term1 padding term2 padding term3
  · cases h; rw [full]; rfl
  · cases h; rw [term1, padding.1, padding.2]; rfl
  · cases h; rw [term2, padding]; rfl
  · cases h; rw [term3]; rfl

theorem opHeader_injective {op op' : Op} (h : opHeader op = opHeader op') : op = op' := by
  simpa using congrArg headerOp h

/-- A header with `OPSEL` 0x0 or 0x7-0xF, or with a reserved bit set, selects no operation (R63). -/
theorem headerOp_of_illegal {h : Byte}
    (illegal : h.extractLsb' 0 4 = 0x0#4 ∨ 7 ≤ (h.extractLsb' 0 4).toNat ∨ h.extractLsb' 4 4 ≠ 0x0#4) :
    headerOp h = none := by
  refine Option.eq_none_iff_forall_ne_some.mpr fun op selected => ?_
  rw [headerOp_eq_some] at selected
  subst selected
  revert illegal
  cases op <;> decide

theorem decodeRequest_of_headerOp_none {r : Request} (h : headerOp r.hdr = none) :
    decodeRequest r = .error (.illegalHeader r.hdr) := by
  simp only [decodeRequest, h]

theorem decodeRequest_ne_stTerm3 (r : Request) (d0 d1 d2 : Byte) : decodeRequest r ≠ .ok (.stTerm3 d0 d1 d2) := by
  intro h
  obtain ⟨op, -, eq⟩ := decodeRequest_ok.mp h
  cases op <;> cases eq

end Sys2Proof

namespace Sys2Proof.Machine

/-- An operation's operands are the fields it uses, and no others (R60). -/
theorem operandsOf_congr {op : Op} {r r' : Request} (h : agreeOn op r r') : operandsOf op r = operandsOf op r' := by
  obtain ⟨-, name, dur, seqv, data⟩ := h
  cases op with
  | resolve => exact congrArg Instr.resolve (name rfl)
  | crc => exact congrArg Instr.crc (data rfl)
  | build => simp only [operandsOf, name rfl, dur rfl, seqv rfl]
  | seqNext => rfl
  | chunk => exact congrArg Instr.chunk (data rfl)
  | encodeCommand => simp only [operandsOf, name rfl, dur rfl]

/-- The encoding of a request's instruction is the request, up to the fields its operation does not use. -/
theorem encode_operandsOf {op : Op} {r : Request} (h : r.hdr = opHeader op) :
    ∃ r', encode (operandsOf op r) = .request r' ∧ r'.hdr = opHeader op ∧ agreeOn op r r' := by
  cases op <;> exact ⟨_, rfl, rfl, h, by simp [usesName, usesDur, usesSeqv, usesData]⟩

/-- Settles O32, from the two encodings without unused fields and `decode_encode`. -/
theorem decodeInvertsEncode : Obligations.DecodeInvertsEncode :=
  ⟨decode_encode, fun _ _ _ => decodeCommand_eq_ok, fun _ _ _ _ _ => decodeChunk_eq_ok⟩

/-- Settles O31: a request and the encoding of `i` that agree on the fields in use have one instruction. -/
theorem requestDecodesByHeaderAndUsedFields : Obligations.RequestDecodesByHeaderAndUsedFields := by
  intro r i
  constructor
  · intro h
    obtain ⟨op, hdr, rfl⟩ := decodeRequest_ok.mp h
    exact ⟨op, encode_operandsOf hdr⟩
  · rintro ⟨op, r', encoded, hdr, agree⟩
    obtain ⟨op', hdr', rfl⟩ := decodeRequest_ok.mp (decode_of_encode encoded)
    obtain rfl := opHeader_injective (hdr.symm.trans hdr')
    exact decodeRequest_ok.mpr ⟨op, agree.1.trans hdr, (operandsOf_congr agree).symm⟩

/-- Settles O30: each header is an operation's, whatever the other fields. -/
theorem sampleWordsDecode : Obligations.SampleWordsDecode := by
  refine ⟨fun name dur seqv data => ⟨?_, ?_, ?_, ?_, ?_, ?_, ?_⟩, by decide, by decide, by decide⟩
  · exact decodeRequest_ok.mpr ⟨.resolve, rfl, rfl⟩
  · exact decodeRequest_ok.mpr ⟨.crc, rfl, rfl⟩
  · exact decodeRequest_ok.mpr ⟨.build, rfl, rfl⟩
  · exact decodeRequest_ok.mpr ⟨.seqNext, rfl, rfl⟩
  · exact decodeRequest_ok.mpr ⟨.chunk, rfl, rfl⟩
  · exact decodeRequest_ok.mpr ⟨.encodeCommand, rfl, rfl⟩
  · exact decodeRequest_of_headerOp_none (headerOp_of_illegal (h := 0x16#8) (.inr (.inr (by decide))))

/-! ## Lines and presented requests (R74, R75) -/

/-- BEEP and FLASH are ENCODE_COMMAND of their names (R75). -/
theorem exec_beep (dur : Half) : exec (.beep dur) = exec (.encodeCommand Config.nameBeep dur) := rfl

theorem exec_flash (dur : Half) : exec (.flash dur) = exec (.encodeCommand Config.nameFlash dur) := rfl

/-- Settles O28. -/
theorem pseudoInstructionsAreEncodeCommand : Obligations.PseudoInstructionsAreEncodeCommand :=
  ⟨fun _ => rfl, fun _ => rfl, fun _ => rfl, fun _ _ => rfl, fun d _ => congrFun (exec_beep d) _,
    fun d _ => congrFun (exec_flash d) _⟩

/-- Settles O35: a line of an operation is that operation's request, and BEEP and FLASH are ENCODE_COMMAND's. -/
theorem lineAssemblesToItsRequest : Obligations.LineAssemblesToItsRequest := by
  intro l
  cases l with
  | resolve name => exact ⟨_, .resolve, rfl, rfl, nofun, fun _ => rfl, fun _ => rfl, fun _ => rfl, fun _ => rfl⟩
  | crc data => exact ⟨_, .crc, rfl, rfl, fun _ => rfl, fun _ => rfl, fun _ => rfl, nofun, fun _ => rfl⟩
  | build name dur seqv => exact ⟨_, .build, rfl, rfl, nofun, nofun, nofun, fun _ => rfl, fun _ => rfl⟩
  | seqNext =>
    exact ⟨_, .seqNext, rfl, rfl, fun _ => rfl, fun _ => rfl, fun _ => rfl, fun _ => rfl, fun _ => rfl⟩
  | chunk data => exact ⟨_, .chunk, rfl, rfl, fun _ => rfl, fun _ => rfl, fun _ => rfl, nofun, fun _ => rfl⟩
  | encodeCommand name dur =>
    exact ⟨_, .encodeCommand, rfl, rfl, nofun, nofun, fun _ => rfl, fun _ => rfl, fun _ => rfl⟩
  | beep dur =>
    exact ⟨_, .encodeCommand, rfl, rfl, nofun, nofun, fun _ => rfl, fun _ => rfl,
      fun s => (congrFun (exec_beep _) s).symm⟩
  | flash dur =>
    exact ⟨_, .encodeCommand, rfl, rfl, nofun, nofun, fun _ => rfl, fun _ => rfl,
      fun s => (congrFun (exec_flash _) s).symm⟩

/-- A request presented by one more requester is accepted next. -/
theorem fetch_present (s : State) (r : Request) :
    fetch (s.present r) = some (.request r, { s with requesters := [] :: s.requesters }) := rfl

/-- Settles O44. -/
theorem fetchWordIsTheNextRequest : Obligations.FetchWordIsTheNextRequest := fun s _ _ => fetch_present s _

/-- Settles O33: no operation has such a header. -/
theorem illegalHeaderIsRefused : Obligations.IllegalHeaderIsRefused := fun _ _ _ accepted illegal =>
  ⟨step_of_illegal accepted (decodeRequest_of_headerOp_none (headerOp_of_illegal illegal)), fetch_seq accepted⟩

/-! ## The fields of a packet (R67, R69, R140) -/

theorem ofBe32_be32 (v : Word) :
    ofBe32 (v.extractLsb' 24 8) (v.extractLsb' 16 8) (v.extractLsb' 8 8) (v.extractLsb' 0 8) = v := by
  have top2 : v.extractLsb' 24 8 ++ v.extractLsb' 16 8 = v.extractLsb' 16 16 :=
    BitVec.extractLsb'_append_extractLsb'_eq_extractLsb' rfl
  have top3 : v.extractLsb' 16 16 ++ v.extractLsb' 8 8 = v.extractLsb' 8 24 :=
    BitVec.extractLsb'_append_extractLsb'_eq_extractLsb' rfl
  rw [ofBe32, top2, top3]
  exact (BitVec.extractLsb'_append_extractLsb'_eq_extractLsb' rfl).trans BitVec.extractLsb'_eq_self

theorem byteAt_drop (bs : Bytes) (i j : Nat) : byteAt (bs.drop i) j = byteAt bs (i + j) := by
  simp [byteAt]

theorem byteAt_append_right (as bs : Bytes) (j : Nat) : byteAt (as ++ bs) (as.length + j) = byteAt bs j := by
  simp [byteAt, List.getElem?_append_right]

section
variable (seq opc : Half) (payload : Bytes)

theorem layout_length : (layout seq opc payload).length = 12 + payload.length := by
  rw [layout_eq]; simp [be16, be32]; omega

theorem pktOpcode_layout : pktOpcode (layout seq opc payload) = opc := by
  rw [layout_eq]
  exact ofBe16_hiByte_loByte opc

/-- Bytes 10 to the end are the payload and the footer. -/
theorem layout_drop_header : (layout seq opc payload).drop 10 = payload ++ be16 Config.FOOTER := by
  rw [layout_eq]; rfl

theorem pktChecksum_layout :
    pktChecksum (layout seq opc payload) = checksum ((layout seq opc payload).drop 5) := by
  rw [layout_eq]
  exact ofBe32_be32 _

variable {payload} (h : payload.length ≤ 255)
include h

theorem pktPayloadLength_layout : pktPayloadLength (layout seq opc payload) = payload.length := by
  have stored : byteAt (layout seq opc payload) 9 = BitVec.ofNat 8 payload.length := by rw [layout_eq]; rfl
  rw [pktPayloadLength, stored, BitVec.toNat_ofNat, Nat.mod_eq_of_lt (by omega)]

theorem pktPayload_layout : pktPayload (layout seq opc payload) = payload := by
  rw [pktPayload, pktPayloadLength_layout seq opc h, layout_drop_header, List.take_left]

theorem pktFooter_layout : pktFooter (layout seq opc payload) = Config.FOOTER := by
  have footer : ∀ j, byteAt (layout seq opc payload) (10 + payload.length + j) = byteAt (be16 Config.FOOTER) j :=
    fun j => by rw [Nat.add_assoc, ← byteAt_drop, layout_drop_header, byteAt_append_right]
  have second : byteAt (layout seq opc payload) (11 + payload.length) = byteAt (be16 Config.FOOTER) 1 := by
    rw [← footer 1]; congr 1; omega
  rw [pktFooter, pktPayloadLength_layout seq opc h, second]
  exact congrArg (ofBe16 · _) (footer 0)

/-- A packet of this hardware is well-formed when its opcode is assigned. -/
theorem packetWf_layout (assigned : opc = Config.OPC_BEEP ∨ opc = Config.OPC_FLASH) :
    packetWf (layout seq opc payload) := by
  refine ⟨?_, rfl, pktFooter_layout seq opc h, ?_, pktChecksum_layout seq opc payload⟩
  · rw [layout_length, pktPayloadLength_layout seq opc h]
  · rwa [pktOpcode_layout]

end

/-- Settles O10, one field at a time. -/
theorem packetFieldsReadBack : Obligations.PacketFieldsReadBack := fun seq opc payload h =>
  ⟨layout_length seq opc payload, rfl, pktSeq_layout seq opc payload, pktOpcode_layout seq opc payload,
    pktPayloadLength_layout seq opc h, pktPayload_layout seq opc h, pktFooter_layout seq opc h,
    pktChecksum_layout seq opc payload⟩

/-! ## The length of `DATA` (R64, R68) -/

theorem longestPacket_le_hw_maxDataLen : Config.LONGEST_PACKET ≤ Config.hw.maxDataLen := Nat.le_add_left ..

section
variable {p : Params} {data : Bytes}

theorem crcIn_of_le (h : data.length ≤ p.maxDataLen) (s : State) :
    crcIn p data s = .next (s.setResponse ⟨.ok, some (.crc (checksum data))⟩) := if_pos h

theorem crcIn_of_gt (h : p.maxDataLen < data.length) (s : State) :
    crcIn p data s = .next (s.setResponse ⟨.reqRefused, none⟩) := if_neg (Nat.not_le.mpr h)

theorem chunkIn_of_le (h : data.length ≤ p.maxDataLen) (s : State) :
    chunkIn p data s = .next (s.setResponse ⟨.ok, some (.frame (chunk data))⟩) := if_pos h

theorem chunkIn_of_gt (h : p.maxDataLen < data.length) (s : State) :
    chunkIn p data s = .next (s.setResponse ⟨.reqRefused, none⟩) := if_neg (Nat.not_le.mpr h)

end

/-- A packet that BUILD answers is no longer than `LONGEST_PACKET` (R68). -/
theorem length_le_of_buildIn {p : Params} {name : CommandName} {dur seqv : Half} {s t : State} {pkt : Bytes}
    (built : buildIn p name dur seqv s = .next t) (answered : t.response = some ⟨.ok, some (.packet pkt)⟩) :
    pkt.length ≤ Config.LONGEST_PACKET := by
  obtain ⟨-, rfl⟩ | ⟨e, -, ⟨-, rfl⟩ | ⟨fits, rfl⟩⟩ := buildIn_cases built <;> cases answered
  rw [layout_length, Config.LONGEST_PACKET]
  omega

/-- Settles O34: over-long `DATA` by the branch each operation takes, packets by their length. -/
theorem overlongDataIsRefused : Obligations.OverlongDataIsRefused := by
  refine ⟨⟨longestPacket_le_hw_maxDataLen, fun _ legal => legal.1⟩, fun _ s h => ⟨crcIn_of_gt h s, chunkIn_of_gt h s⟩,
    fun _ _ s h => ⟨crcIn_of_gt h s, chunkIn_of_gt h s⟩, fun _ _ _ _ _ u _ built answered => ?_,
    fun _ _ _ _ _ _ u _ legal built answered => ?_⟩
  · have short := (length_le_of_buildIn built answered).trans longestPacket_le_hw_maxDataLen
    exact ⟨crcIn_of_le short u, chunkIn_of_le short u⟩
  · have short := length_le_of_buildIn built answered
    exact ⟨short, crcIn_of_le (short.trans legal.1) u, chunkIn_of_le (short.trans legal.1) u⟩

/-! ## Frames and chunk statuses (R70, R190, R194) -/

/-- Settles O22: the encoder's recursion undone, `recover_chunk`. -/
theorem rawBytesAreRecoveredFromTheFrame : Obligations.RawBytesAreRecoveredFromTheFrame :=
  ⟨⟨validBytes_full, validBytes_term1, validBytes_term2, validBytes_term3⟩, rfl, recover_chunk⟩

/-- Every status byte of a well-formed frame is one of the three that are emitted (R70, R71). -/
theorem status_of_frameWf {f : Bytes} (wf : frameWf f = true) {k : Nat} (hk : 4 * k < f.length) :
    byteAt f (4 * k) = Config.ST_FULL ∨ byteAt f (4 * k) = Config.ST_TERM1 ∨ byteAt f (4 * k) = Config.ST_TERM2 := by
  induction f using frameWf.induct generalizing k with
  | case1 => simp at hk
  | case2 d0 d1 d2 rest ih =>
    cases k with
    | zero => exact .inl rfl
    | succ k => exact ih wf (k := k) (by simp at hk; omega)
  | case3 d0 d1 d2 rest =>
    obtain ⟨-, -, rfl⟩ := of_decide_eq_true wf
    obtain rfl : k = 0 := by simp at hk; omega
    exact .inr (.inl rfl)
  | case4 d0 d1 d2 rest =>
    obtain ⟨-, rfl⟩ := of_decide_eq_true wf
    obtain rfl : k = 0 := by simp at hk; omega
    exact .inr (.inr rfl)
  | case5 status d0 d1 d2 rest full term1 term2 => simp [frameWf, full, term1, term2] at wf
  | case6 f nonempty short => simp [frameWf] at wf

/-- CHUNK of so little `DATA` is never refused, since every legal bound is greater (R64). -/
theorem exec_chunk_of_length_le_three {data : Bytes} (h : data.length ≤ 3) (s : State) :
    exec (.chunk data) s = respond (.frame (chunk data)) s :=
  chunkIn_of_le ((h.trans (by decide)).trans longestPacket_le_hw_maxDataLen) s

/-! A status row is CHUNK of its chunk's valid bytes (R70). -/

theorem exec_stFull (d0 d1 d2 : Byte) (s : State) : exec (.stFull d0 d1 d2) s = exec (.chunk [d0, d1, d2]) s :=
  (exec_chunk_of_length_le_three (data := [d0, d1, d2]) (Nat.le_refl 3) s).symm

theorem exec_stTerm1 (d0 : Byte) (s : State) : exec (.stTerm1 d0) s = exec (.chunk [d0]) s :=
  (exec_chunk_of_length_le_three (data := [d0]) (Nat.le_add_left 1 2) s).symm

theorem exec_stTerm2 (d0 d1 : Byte) (s : State) : exec (.stTerm2 d0 d1) s = exec (.chunk [d0, d1]) s :=
  (exec_chunk_of_length_le_three (data := [d0, d1]) (Nat.le_add_left 2 1) s).symm

/-- Settles O23: a row's frame is its one chunk, and the row is CHUNK of the valid bytes. -/
theorem statusRowsEmitOneChunk : Obligations.StatusRowsEmitOneChunk := fun d0 d1 d2 s =>
  ⟨rfl, rfl, rfl, exec_stFull d0 d1 d2 s, exec_stTerm1 d0 s, exec_stTerm2 d0 d1 s⟩

/-! ## The frame of a command (R210) -/

theorem encodeCommandIn_of_unknown {p : Params} {name : CommandName} (unknown : lookup (catalog p) name = none)
    (dur : Half) (s : State) : encodeCommandIn p name dur s = .next (s.setResponse ⟨.unknownCommand, none⟩) := by
  simp only [encodeCommandIn, unknown, raise]

theorem encodeCommandIn_of_fits {p : Params} {name : CommandName} {e : CommandSpec} {dur : Half}
    (found : lookup (catalog p) name = some e) (fits : (e.encoder dur).length ≤ 255) (s : State) :
    encodeCommandIn p name dur s = .next ((s.setSeq (nextSeq s.seq)).setResponse
      ⟨.ok, some (.frame (chunk (layout (nextSeq s.seq) e.opcode (e.encoder dur))))⟩) := by
  simp only [encodeCommandIn, found, encodePayload_ok fits, respond, draw]

/-- The five chunks of a packet with two payload bytes. -/
theorem chunk_layout_pair (v opc : Half) (d0 d1 : Byte) :
    let c := checksum [hiByte v, loByte v, hiByte opc, loByte opc, 0x02#8, d0, d1, 0x23#8, 0x23#8]
    chunk (layout v opc [d0, d1]) =
      emitFull 0x62#8 (c.extractLsb' 24 8) (c.extractLsb' 16 8) ++
        (emitFull (c.extractLsb' 8 8) (c.extractLsb' 0 8) (hiByte v) ++
        (emitFull (loByte v) (hiByte opc) (loByte opc) ++ (emitFull 0x02#8 d0 d1 ++ emitTerm2 0x23#8 0x23#8))) := by
  rw [layout_eq]
  rfl

theorem lookup_hw_beep : lookup (catalog Config.hw) Config.nameBeep = some (beepSpec Config.durationByteOrder) := by
  rw [lookup_hw, if_pos rfl]

theorem lookup_hw_flash :
    lookup (catalog Config.hw) Config.nameFlash = some (flashSpec Config.durationByteOrder) := by
  rw [lookup_hw, if_neg (by decide), if_pos rfl]

/-- Settles O26: the catalog's entry for the name, then the chunks of its packet. -/
theorem encodeCommandAnswersTheFrameBytes : Obligations.EncodeCommandAnswersTheFrameBytes := by
  intro dur s
  refine ⟨nextSeq s.seq, nextSeq_toNat s.seq, fun name opc i row => ⟨_, _, rfl, ?_⟩, fun name notBeep notFlash => ?_⟩
  · obtain row | row := row <;> cases row
    · have frame := encodeCommandIn_of_fits (dur := dur) lookup_hw_beep (by simp [beepSpec]) s
      simp only [beepSpec, encDur16, chunk_layout_pair] at frame
      exact ⟨frame, frame⟩
    · have frame := encodeCommandIn_of_fits (dur := dur) lookup_hw_flash (by simp [flashSpec]) s
      simp only [flashSpec, encDur16, chunk_layout_pair] at frame
      exact ⟨frame, frame⟩
  · have unknown : lookup (catalog Config.hw) name = none :=
      (lookup_hw name).trans ((if_neg notBeep).trans (if_neg notFlash))
    exact encodeCommandIn_of_unknown unknown dur s

/-! ## Every response is one this hardware may give (R61, R142, R143, R193, R231) -/

/-- The catalog's entries have assigned opcodes and the shape of a duration (R101). -/
theorem assigned_of_lookup_hw {name : CommandName} {e : CommandSpec} (h : lookup (catalog Config.hw) name = some e) :
    (e.opcode = Config.OPC_BEEP ∨ e.opcode = Config.OPC_FLASH) ∧ e.shape = Config.SHAPE_DUR16 := by
  rw [lookup_hw] at h
  split_ifs at h <;> cases h
  · exact ⟨.inl rfl, rfl⟩
  · exact ⟨.inr rfl, rfl⟩

/-- The response port holds a response this hardware may give, whose result, if it has one, has the operation's shape. -/
def Answered (op : Op) (t : State) : Prop :=
  ∃ resp, t.response = some resp ∧ responseWf resp ∧ ∀ result, resp.result = some result → fitsOp op result = true

theorem answered_ok (op : Op) (s : State) {result : Result} (wf : resultWf result) (fits : fitsOp op result = true) :
    Answered op (s.setResponse ⟨.ok, some result⟩) :=
  ⟨_, rfl, ⟨rfl, wf⟩, fun _ h => Option.some.inj h ▸ fits⟩

theorem answered_error (op : Op) (s : State) {e : Status} (h : e = .unknownCommand ∨ e = .reqRefused) :
    Answered op (s.setResponse ⟨e, none⟩) :=
  ⟨_, rfl, h, nofun⟩

section
variable {s t : State}

theorem answered_execResolve {name : CommandName} (h : execResolve name s = .next t) : Answered .resolve t := by
  obtain ⟨-, rfl⟩ | ⟨e, found, rfl⟩ := resolveIn_cases h
  · exact answered_error _ _ (.inl rfl)
  · exact answered_ok _ _ (assigned_of_lookup_hw found) rfl

theorem answered_execCrc {data : Bytes} (h : execCrc data s = .next t) : Answered .crc t := by
  obtain ⟨-, rfl⟩ | ⟨-, rfl⟩ := crcIn_cases h
  · exact answered_error _ _ (.inr rfl)
  · exact answered_ok _ _ trivial rfl

theorem answered_execBuild {name : CommandName} {dur seqv : Half} (h : execBuild name dur seqv s = .next t) :
    Answered .build t := by
  obtain ⟨-, rfl⟩ | ⟨e, found, ⟨tooLarge, -⟩ | ⟨fits, rfl⟩⟩ := buildIn_cases h
  · exact answered_error _ _ (.inl rfl)
  · simp [encoder_length_of_lookup_hw found] at tooLarge
  · exact answered_ok _ _ (packetWf_layout _ _ fits (assigned_of_lookup_hw found).1) rfl

theorem answered_execChunk {data : Bytes} (h : execChunk data s = .next t) : Answered .chunk t := by
  obtain ⟨-, rfl⟩ | ⟨-, rfl⟩ := chunkIn_cases h
  · exact answered_error _ _ (.inr rfl)
  · exact answered_ok _ _ (chunk_frameWf data) rfl

theorem answered_execEncodeCommand {name : CommandName} {dur : Half} (h : execEncodeCommand name dur s = .next t) :
    Answered .encodeCommand t := by
  obtain ⟨-, rfl⟩ | ⟨e, found, ⟨tooLarge, -⟩ | ⟨-, rfl⟩⟩ := encodeCommandIn_cases h
  · exact answered_error _ _ (.inl rfl)
  · simp [encoder_length_of_lookup_hw found] at tooLarge
  · exact answered_ok _ _ (chunk_frameWf _) rfl

end

/-- Whatever an instruction answers is the answer of one of the six operations. -/
theorem answered_exec {i : Instr} {s t : State} (h : exec i s = .next t) : ∃ op, Answered op t := by
  cases i with
  | resolve => exact ⟨_, answered_execResolve h⟩
  | crc => exact ⟨_, answered_execCrc h⟩
  | build => exact ⟨_, answered_execBuild h⟩
  | seqNext => cases h; exact ⟨.seqNext, answered_ok _ _ trivial rfl⟩
  | chunk => exact ⟨_, answered_execChunk h⟩
  | encodeCommand => exact ⟨_, answered_execEncodeCommand h⟩
  | beep dur => exact ⟨_, answered_execEncodeCommand (name := Config.nameBeep) h⟩
  | flash dur => exact ⟨_, answered_execEncodeCommand (name := Config.nameFlash) h⟩
  | stFull => rw [exec_stFull] at h; exact ⟨_, answered_execChunk h⟩
  | stTerm1 => rw [exec_stTerm1] at h; exact ⟨_, answered_execChunk h⟩
  | stTerm2 => rw [exec_stTerm2] at h; exact ⟨_, answered_execChunk h⟩
  | stTerm3 d0 d1 d2 => exact absurd h (exec_stTerm3_ne_next d0 d1 d2 s t)

/-- The instruction of a request answers as the operation that the header selects. -/
theorem answered_exec_operandsOf {op : Op} {r : Request} {s t : State} (h : exec (operandsOf op r) s = .next t) :
    Answered op t := by
  cases op with
  | resolve => exact answered_execResolve h
  | crc => exact answered_execCrc h
  | build => exact answered_execBuild h
  | seqNext => cases h; exact answered_ok _ _ trivial rfl
  | chunk => exact answered_execChunk h
  | encodeCommand => exact answered_execEncodeCommand h

/-- R61's first half: a response this hardware may give has a result exactly when its status is OK. -/
theorem isSome_result_iff {resp : Response} (wf : responseWf resp) : resp.result.isSome = true ↔ resp.status = .ok := by
  unfold responseWf at wf
  split at wf
  · next result present => simp [present, wf.1]
  · next absent => obtain error | error := wf <;> simp [absent, error]

/-- Settles O24: a frame that is answered is well-formed, and so are its status bytes. -/
theorem reservedStatusIsNeverEmitted : Obligations.ReservedStatusIsNeverEmitted := by
  refine ⟨fun _ _ _ _ => rfl, decodeRequest_ne_stTerm3, fun i s t f k completed answered hk => ?_⟩
  obtain ⟨op, resp, stands, wf, -⟩ := answered_exec completed
  cases stands.symm.trans answered
  exact status_of_frameWf wf.2 hk

/-- Every step keeps the invariant: it waits, it empties the response port, or it puts a response there. -/
theorem step_preserves_inv {s t : State} (inv : Inv s) (h : step s = .next t) : Inv t := by
  intro resp stands
  obtain ⟨-, rfl⟩ | ⟨cause, s1, -, rfl⟩ | ⟨r, s1, -, -, rfl⟩ | ⟨r, s1, op, -, -, done⟩ := step_cases h
  · exact inv resp stands
  · cases stands
  · cases stands; exact .inr rfl
  · obtain ⟨resp', stands', wf, -⟩ := answered_exec_operandsOf done
    cases stands.symm.trans stands'
    exact wf

/-- Settles O50. -/
theorem stepKeepsResponsesWellFormed : Obligations.StepKeepsResponsesWellFormed := fun _ _ => step_preserves_inv

/-- Settles O37: an illegal header is refused with no result; a legal one is answered as its operation. -/
theorem resultPresentExactlyWhenOk : Obligations.ResultPresentExactlyWhenOk := by
  intro s s1 r accepted
  cases selected : headerOp r.hdr with
  | none =>
    exact ⟨_, _, step_of_illegal accepted (decodeRequest_of_headerOp_none selected), rfl, by simp, nofun⟩
  | some op =>
    have decoded := decodeRequest_ok.mpr ⟨op, headerOp_eq_some.mp selected, rfl⟩
    obtain ⟨t, done⟩ := exec_operandsOf_completes op r s1
    obtain ⟨resp, stands, wf, fits⟩ := answered_exec_operandsOf done
    exact ⟨t, resp, (step_of_decoded accepted decoded).trans done, stands, isSome_result_iff wf,
      fun result present => ⟨op, rfl, fits result present⟩⟩

/-- A run from a state that meets the invariant does not stop, and all its responses are ones CODEC may give. -/
theorem trace_responses_wf (n : Nat) {s : State} (inv : Inv s) :
    ∃ tr t, trace n s = some (tr, t) ∧ ∀ e resp, (e, some resp) ∈ tr → responseWf resp := by
  induction n generalizing s with
  | zero => exact ⟨[], s, rfl, nofun⟩
  | succ n ih =>
    cases accepted : fetch s with
    | none => exact ⟨[], s, trace_of_fetch_none _ accepted, nofun⟩
    | some next =>
      obtain ⟨e, s1⟩ := next
      obtain ⟨t, done, -⟩ := step_of_fetch_some accepted
      have inv' := step_preserves_inv inv done
      obtain ⟨tr, u, run, wf⟩ := ih inv'
      refine ⟨(e, t.response) :: tr, u, by rw [trace_of_step n accepted done, run]; rfl, fun e' resp listed => ?_⟩
      obtain first | later := List.mem_cons.mp listed
      · exact inv' resp (congrArg Prod.snd first).symm
      · exact wf e' resp later

/-- Settles O52: at reset no response stands at the port. -/
theorem everyResponseOfARunIsWellFormed : Obligations.EveryResponseOfARunIsWellFormed := fun _ _ n =>
  trace_responses_wf n nofun

end Sys2Proof.Machine
end

section
/-! The catalog of 40_catalog.md: which entry a name has, the bytes of a duration, the bound on a payload, and what RESOLVE
and BUILD answer for the entry. -/

namespace Sys2Proof.Machine

/-! ## Entries by their names (R104, R105) -/

/-- The names of a legal catalog are distinct (R104). -/
theorem catalog_names_nodup {p : Params} (legal : p.Legal) : ((catalog p).map CommandSpec.name).Nodup := legal.2

theorem lookup_eq_none {entries : List CommandSpec} {name : CommandName} :
    lookup entries name = none ↔ ∀ e ∈ entries, e.name ≠ name := by
  simp [lookup, List.find?_eq_none]

theorem mem_and_name_of_lookup {entries : List CommandSpec} {name : CommandName} {e : CommandSpec}
    (found : lookup entries name = some e) : e ∈ entries ∧ e.name = name := by
  rw [lookup] at found
  exact ⟨List.mem_of_find?_eq_some found, of_decide_eq_true (List.find?_some found :)⟩

/-- Where names are distinct, an entry is the one its name finds, wherever it stands. -/
theorem lookup_eq_some {entries : List CommandSpec} (distinct : (entries.map CommandSpec.name).Nodup)
    {name : CommandName} {e : CommandSpec} : lookup entries name = some e ↔ e ∈ entries ∧ e.name = name := by
  refine ⟨mem_and_name_of_lookup, fun ⟨listed, named⟩ => ?_⟩
  cases found : lookup entries name with
  | none => exact absurd named (lookup_eq_none.mp found e listed)
  | some e' =>
    obtain ⟨listed', named'⟩ := mem_and_name_of_lookup found
    rw [List.inj_on_of_nodup_map distinct listed' listed (named'.trans named.symm)]

/-- Settles O2: the names of a legal catalog are distinct. -/
theorem lookupReturnsTheEntryOfThatName : Obligations.LookupReturnsTheEntryOfThatName := fun _ legal _ =>
  ⟨fun _ => lookup_eq_some (catalog_names_nodup legal), lookup_eq_none⟩

theorem lookup_hw_unknown {name : CommandName} (notBeep : name ≠ Config.nameBeep) (notFlash : name ≠ Config.nameFlash) :
    lookup (catalog Config.hw) name = none := by
  rw [lookup_hw, if_neg notBeep, if_neg notFlash]

/-! ## This hardware's entries (R101) -/

theorem hw_legal : Config.hw.Legal := by
  refine ⟨longestPacket_le_hw_maxDataLen, ?_⟩
  change [Config.nameBeep, Config.nameFlash].Nodup
  decide

/-- Settles O1: the two entries are those of `beepSpec` and `flashSpec`, with nothing after them. -/
theorem hardwareCatalogIsBeepAndFlash : Obligations.HardwareCatalogIsBeepAndFlash := by
  refine ⟨hw_legal, rfl, fun e listed d => ?_⟩
  have entry : e ∈ [beepSpec Config.durationByteOrder, flashSpec Config.durationByteOrder] := listed
  obtain rfl | rfl : e = beepSpec _ ∨ e = flashSpec _ := by simpa using entry
  · exact ⟨rfl, encDur16_length _ d⟩
  · exact ⟨rfl, encDur16_length _ d⟩

/-! ## Payloads (R102, R103) -/

theorem hiByte_toNat (v : Half) : (hiByte v).toNat = v.toNat / 256 := by
  rw [hiByte, BitVec.extractLsb'_toNat, Nat.shiftRight_eq_div_pow]
  have bound := v.isLt
  omega

theorem loByte_toNat (v : Half) : (loByte v).toNat = v.toNat % 256 := by
  rw [loByte, BitVec.extractLsb'_toNat, Nat.shiftRight_zero]

/-- Settles O3: each byte as a quotient or remainder of the duration. -/
theorem durationPayloadFollowsByteOrder : Obligations.DurationPayloadFollowsByteOrder := by
  intro d
  have be : encDur16 .BE d = [hiByte d, loByte d] := rfl
  have le : encDur16 .LE d = [loByte d, hiByte d] := rfl
  simp [be, le, hiByte_toNat, loByte_toNat]

/-- Settles O4, one clause for each side of the bound. -/
theorem payloadAbove255BytesIsTooLarge : Obligations.PayloadAbove255BytesIsTooLarge := fun _ _ =>
  ⟨encodePayload_ok, encodePayload_tooLarge⟩

/-! ## RESOLVE (R100) -/

section
variable {p : Params} {name : CommandName}

theorem resolveIn_of_found {e : CommandSpec} (found : lookup (catalog p) name = some e) (s : State) :
    resolveIn p name s = .next (s.setResponse ⟨.ok, some (.spec e.opcode e.shape)⟩) := by
  simp only [resolveIn, found, respond]

theorem resolveIn_of_unknown (unknown : lookup (catalog p) name = none) (s : State) :
    resolveIn p name s = .next (s.setResponse ⟨.unknownCommand, none⟩) := by
  simp only [resolveIn, unknown, raise]

end

/-- Settles O5, by what `lookup` finds. -/
theorem resolveAnswersOpcodeAndShape : Obligations.ResolveAnswersOpcodeAndShape :=
  ⟨fun s => ⟨resolveIn_of_found lookup_hw_beep s, resolveIn_of_found lookup_hw_flash s,
      fun _ notBeep notFlash => resolveIn_of_unknown (lookup_hw_unknown notBeep notFlash) s⟩,
    fun _ _ s => ⟨fun _ found => resolveIn_of_found found s, fun unknown => resolveIn_of_unknown unknown s⟩⟩

/-! ## BUILD (R141) -/

section
variable {p : Params} {name : CommandName} (dur seqv : Half) (s : State)

theorem buildIn_of_unknown (unknown : lookup (catalog p) name = none) :
    buildIn p name dur seqv s = .next (s.setResponse ⟨.unknownCommand, none⟩) := by
  simp only [buildIn, unknown, raise]

theorem buildIn_of_fits {e : CommandSpec} (found : lookup (catalog p) name = some e)
    (fits : (e.encoder dur).length ≤ 255) :
    buildIn p name dur seqv s =
      .next (s.setResponse ⟨.ok, some (.packet (layout seqv e.opcode (e.encoder dur)))⟩) := by
  simp only [buildIn, found, encodePayload_ok fits, respond]

end

/-- Settles O11: the entry's packet, written out by `layout_eq`. -/
theorem buildAnswersThePacketBytes : Obligations.BuildAnswersThePacketBytes := by
  refine fun dur seqv s => ⟨fun name opc row => ?_, fun name notBeep notFlash =>
    buildIn_of_unknown dur seqv s (lookup_hw_unknown notBeep notFlash)⟩
  obtain row | row := row <;> cases row
  · have built := buildIn_of_fits dur seqv s lookup_hw_beep (by simp [beepSpec])
    rw [layout_eq] at built
    exact built
  · have built := buildIn_of_fits dur seqv s lookup_hw_flash (by simp [flashSpec])
    rw [layout_eq] at built
    exact built

end Sys2Proof.Machine
end

section
/-! The checksum of 41_checksum.md: no step of it loses information about the accumulator or about the byte, so it tells
apart any two messages that differ in one byte; the listed values; and what CRC answers. -/

namespace Sys2Proof.Machine

/-! ## The algorithm can be undone (R120) -/

/-- `POLY` is odd and a shift leaves bit 0 clear: the lowest bit of a round tells whether `POLY` was applied. -/
theorem crcRound_getLsbD_zero (a : Word) : (crcRound a).getLsbD 0 = a.getLsbD 31 := by
  unfold crcRound
  cases a.getLsbD 31 <;> simp [Config.POLY]

/-- A round with the polynomial taken out again is the shift. -/
theorem shiftLeft_one_eq_of_crcRound (a : Word) :
    a <<< 1 = if (crcRound a).getLsbD 0 then crcRound a ^^^ Config.POLY else crcRound a := by
  rw [crcRound_getLsbD_zero]
  unfold crcRound
  split
  · rw [BitVec.xor_assoc, BitVec.xor_self, BitVec.xor_zero]
  · rfl

/-- The shift holds all bits but the top one, and the lowest bit of the round holds that. -/
theorem crcRound_injective : Function.Injective crcRound := by
  intro a b same
  have shifted : a <<< 1 = b <<< 1 := by
    rw [shiftLeft_one_eq_of_crcRound a, shiftLeft_one_eq_of_crcRound b, same]
  have top : a.getLsbD 31 = b.getLsbD 31 := by
    rw [← crcRound_getLsbD_zero a, ← crcRound_getLsbD_zero b, same]
  refine BitVec.eq_of_getLsbD_eq fun i hi => ?_
  obtain rfl | below : i = 31 ∨ i + 1 < 32 := by omega
  · exact top
  · simpa [hi, below] using congrArg (·.getLsbD (i + 1)) shifted

theorem crcRounds_injective (k : Nat) : Function.Injective (crcRounds k) := by
  induction k with
  | zero => exact Function.injective_id
  | succ k ih => exact ih.comp crcRound_injective

/-- Two accumulators that differ still differ after any one byte. -/
theorem crcByte_left_injective (b : Byte) : Function.Injective (crcByte · b) := fun _ _ same =>
  (BitVec.xor_left_inj _).mp (crcRounds_injective 8 same)

/-- A byte can be read back from `ACC[31:24]`. -/
theorem topByte_injective : Function.Injective fun b : Byte => (b.setWidth 32 <<< 24 : Word) := by
  intro x y same
  have value : ∀ b : Byte, (b.setWidth 32 <<< 24 : Word).toNat = b.toNat * 2 ^ 24 := fun b => by
    have bound := b.isLt
    rw [BitVec.toNat_shiftLeft, BitVec.toNat_setWidth, Nat.shiftLeft_eq]
    omega
  refine BitVec.eq_of_toNat_eq (Nat.eq_of_mul_eq_mul_right (by decide : 0 < 2 ^ 24) ?_)
  rw [← value x, ← value y]
  exact congrArg BitVec.toNat same

/-- Two bytes that differ take an accumulator to two that differ. -/
theorem crcByte_right_injective (a : Word) : Function.Injective (crcByte a) := fun _ _ same =>
  topByte_injective ((BitVec.xor_right_inj a).mp (crcRounds_injective 8 same))

theorem foldl_crcByte_injective (bs : Bytes) : Function.Injective fun a => bs.foldl crcByte a := by
  induction bs with
  | nil => exact Function.injective_id
  | cons b bs ih => exact ih.comp (crcByte_left_injective b)

/-! ## Messages in pieces (R123) -/

/-- The checksum can be computed incrementally. -/
theorem checksum_append (a b : Bytes) : checksum (a ++ b) = b.foldl crcByte (checksum a) :=
  List.foldl_append

/-- Settles O8: the byte that differs gives accumulators that differ, and the bytes after it keep them so. -/
theorem checksumDetectsAnyChangedByte : Obligations.ChecksumDetectsAnyChangedByte := by
  intro a c x y differ same
  rw [checksum_append, checksum_append] at same
  exact differ (crcByte_right_injective _ (foldl_crcByte_injective c same))

/-- Settles O6: (b) is the incremental computation, (e) for values is O8, and the rest are values of the algorithm. -/
theorem checksumHasTheListedProperties : Obligations.ChecksumHasTheListedProperties :=
  ⟨rfl, checksum_append, by decide, by decide, ⟨0x00#8, 0x01#8, by decide +kernel⟩,
    ⟨0x00#8, 0x01#8, checksumDetectsAnyChangedByte [] [] _ _ (by decide)⟩⟩

/-! ## CRC (R121) -/

/-- Settles O9, one clause for each side of the bound. -/
theorem crcAnswersChecksumOfData : Obligations.CrcAnswersChecksumOfData := fun _ s =>
  ⟨fun short => crcIn_of_le short s, fun long => crcIn_of_gt long s⟩

end Sys2Proof.Machine
end

section
/-! The packets of 42_packet_builder.md: what BUILD can answer, the layout and the checksum of the packet it returns,
and the packet read back from the frame of an ENCODE_COMMAND. -/

namespace Sys2Proof.Machine

/-! ## The packet in a frame (R194, R210) -/

/-- Settles O29: the frame is that of the entry's packet, `recover_chunk` gives the packet back, and its fields are read
from the layout. -/
theorem frameCarriesTheNumberOpcodeAndPayload : Obligations.FrameCarriesTheNumberOpcodeAndPayload := by
  intro p name e dur s found fits
  refine ⟨_, _, encodeCommandIn_of_fits found fits s, rfl, nextSeq_toNat s.seq, ?_⟩
  rw [recover_chunk]
  exact ⟨pktSeq_layout .., pktOpcode_layout .., pktPayload_layout _ _ fits, pktFooter_layout _ _ fits,
    pktChecksum_layout ..⟩

/-! ## What BUILD can answer (R141, R145) -/

theorem buildIn_of_tooLarge {p : Params} {name : CommandName} {e : CommandSpec} {dur : Half}
    (found : lookup (catalog p) name = some e) (tooLarge : 255 < (e.encoder dur).length) (seqv : Half) (s : State) :
    buildIn p name dur seqv s = .next (s.setResponse ⟨.payloadTooLarge, none⟩) := by
  simp only [buildIn, found, encodePayload_tooLarge tooLarge, raise]

/-- Settles O14: BUILD answers alone, and each clause gives the answer of its own case. -/
theorem buildErrorsChangeNoState : Obligations.BuildErrorsChangeNoState := by
  intro p name dur seqv s
  obtain ⟨r, answers⟩ := answersAlone_buildIn p name dur seqv
  have eq_r : ∀ {r'}, buildIn p name dur seqv s = .next (s.setResponse r') → r = r' := fun h => by
    simpa [State.setResponse] using (answers s).symm.trans h
  exact ⟨r, answers s, fun unknown => eq_r (buildIn_of_unknown dur seqv s unknown),
    fun e found tooLarge => eq_r (buildIn_of_tooLarge found tooLarge seqv s),
    fun e found fits => eq_r (buildIn_of_fits dur seqv s found fits)⟩

/-- A packet that BUILD answers is laid out from the supplied sequence value and the entry of the name. -/
theorem packet_of_buildIn {p : Params} {name : CommandName} {dur seqv : Half} {s t : State} {pkt : Bytes}
    (built : buildIn p name dur seqv s = .next t) (answered : t.response = some ⟨.ok, some (.packet pkt)⟩) :
    ∃ e, lookup (catalog p) name = some e ∧ (e.encoder dur).length ≤ 255 ∧
      pkt = layout seqv e.opcode (e.encoder dur) := by
  obtain ⟨-, rfl⟩ | ⟨e, found, ⟨-, rfl⟩ | ⟨fits, rfl⟩⟩ := buildIn_cases built <;> cases answered
  exact ⟨e, found, fits, rfl⟩

/-! ## Slices of a packet (R10, R67) -/

theorem slice_eq_take_drop (bs : Bytes) (i j : Nat) : slice bs i j = (bs.drop i).take (j + 1 - i) := List.drop_take

section
variable (seq opc : Half) (payload : Bytes)

theorem slice_layout_checksum :
    slice (layout seq opc payload) 1 4 = be32 (checksum ((layout seq opc payload).drop 5)) := by
  rw [layout_eq]; rfl

theorem slice_layout_seq : slice (layout seq opc payload) 5 6 = be16 seq := by
  rw [layout_eq]; rfl

theorem slice_layout_opcode : slice (layout seq opc payload) 7 8 = be16 opc := by
  rw [layout_eq]; rfl

theorem slice_layout_payload : slice (layout seq opc payload) 10 (9 + payload.length) = payload := by
  have count : 9 + payload.length + 1 - 10 = payload.length := by omega
  rw [slice_eq_take_drop, layout_drop_header, count, List.take_left]

/-- Byte 11+L is the last of the packet. -/
theorem slice_layout_to_end (i : Nat) :
    slice (layout seq opc payload) i (11 + payload.length) = (layout seq opc payload).drop i := by
  rw [slice, List.take_of_length_le]
  rw [layout_length]
  omega

theorem slice_layout_footer :
    slice (layout seq opc payload) (10 + payload.length) (11 + payload.length) = be16 Config.FOOTER := by
  rw [slice_layout_to_end, ← List.drop_drop, layout_drop_header, List.drop_left]

end

/-! ## The packet BUILD returns (R142, R143) -/

/-- Settles O12, one field of the layout at a time. -/
theorem builtPacketKeepsTheLayout : Obligations.BuiltPacketKeepsTheLayout := by
  intro p name e dur seqv s t pkt found built answered
  have longest := length_le_of_buildIn built answered
  obtain ⟨e', found', fits, rfl⟩ := packet_of_buildIn built answered
  obtain rfl : e = e' := Option.some.inj (found.symm.trans found')
  have len := layout_length seqv e.opcode (e.encoder dur)
  exact ⟨len, len ▸ Nat.le_add_right .., longest, rfl, slice_layout_footer .., slice_layout_seq ..,
    slice_layout_opcode .., pktPayloadLength_layout _ _ fits, slice_layout_payload ..⟩

/-- Settles O13: byte 9 is the payload's length, so that byte 11 + pkt[9] is the last of the packet. -/
theorem builtPacketKeepsTheChecksum : Obligations.BuiltPacketKeepsTheChecksum := by
  intro p name dur seqv s t pkt built answered
  obtain ⟨e, -, fits, rfl⟩ := packet_of_buildIn built answered
  have stored : (byteAt (layout seqv e.opcode (e.encoder dur)) 9).toNat = (e.encoder dur).length :=
    pktPayloadLength_layout _ _ fits
  rw [stored, slice_layout_to_end, slice_layout_checksum]

end Sys2Proof.Machine
end

section
/-! The numbers of 43_sequence.md: what each accepted event makes of `SEQ`, the draws of any run numbered from the last
reset, and from that the runs without a reset and the draws of concurrent requesters. -/

namespace Sys2Proof.Machine

/-! ## SEQ_NEXT (R170, R172) -/

/-- Settles O15: the number handed out is `nextSeq` of `SEQ`. -/
theorem seqNextHandsOutTheNextNumber : Obligations.SeqNextHandsOutTheNextNumber := fun s =>
  ⟨nextSeq s.seq, nextSeq_toNat s.seq, rfl⟩

/-! ## What one step makes of `SEQ` -/

theorem isDraw_of_decoded {r : Request} {i : Instr} (decoded : decodeRequest r = .ok i) :
    isDraw (.request r) = draws i := by
  simp only [isDraw, decoded]

/-- A request that is no draw leaves `SEQ` as it was (R46). -/
theorem step_seq_of_not_draw {s s1 t : State} {r : Request} (accepted : fetch s = some (.request r, s1))
    (notDraw : isDraw (.request r) = false) (done : step s = .next t) : t.seq = s.seq := by
  rw [← fetch_seq accepted]
  cases decoded : decodeRequest r with
  | error why =>
    rw [step_of_illegal accepted decoded] at done
    cases done; rfl
  | ok i =>
    rw [step_of_decoded accepted decoded] at done
    obtain ⟨-, resp, rfl⟩ | ⟨drew, -⟩ := exec_next_cases done
    · rfl
    · simp [← isDraw_of_decoded decoded, notDraw] at drew

/-- The step that accepts an event leaves in `SEQ` what the event makes of the count of draws. -/
theorem step_seq_eq_drawsSinceReset {s s1 t : State} {e : Event} (accepted : fetch s = some (e, s1))
    (done : step s = .next t) : t.seq.toNat = drawsSinceReset s.seq.toNat [(e, t.response)] % 65536 := by
  cases e with
  | reset cause =>
    rw [step_of_fetch_reset accepted] at done
    cases done; rfl
  | request r =>
    cases drew : isDraw (.request r) with
    | false => simp [step_seq_of_not_draw accepted drew done, drew, Nat.mod_eq_of_lt s.seq.isLt]
    | true =>
      obtain ⟨answer, served⟩ := step_of_draw drew
      rw [(served s s1 accepted).1] at done
      cases done
      simp [nextSeq_toNat, fetch_seq accepted, drew]

/-- The step that accepts a draw hands out one more than `SEQ`. -/
theorem drawn_of_step {s s1 t : State} {e : Event} (accepted : fetch s = some (e, s1)) (done : step s = .next t)
    (drew : isDraw e = true) : drawn (e, t.response) = some (nextSeq s.seq) := by
  cases e with
  | reset cause => cases drew
  | request r =>
    obtain ⟨answer, served⟩ := step_of_draw drew
    obtain ⟨step_eq, drawn_eq⟩ := served s s1 accepted
    rw [step_eq] at done
    cases done
    rw [← fetch_seq accepted]
    exact drawn_eq

/-! ## Counting the draws of a trace (R173) -/

theorem exists_request_of_isDraw {e : Event} (drew : isDraw e = true) : ∃ r, e = .request r := by
  cases e with
  | request r => exact ⟨r, rfl⟩
  | reset cause => cases drew

theorem drawn_of_not_draw {x : Event × Option Response} (notDraw : isDraw x.1 = false) : drawn x = none := by
  obtain ⟨e, resp⟩ := x
  cases resp with
  | none => rfl
  | some resp => exact if_neg (by simp [notDraw])

theorem drawsSinceReset_cons (n : Nat) (x : Event × Option Response) (tr : List (Event × Option Response)) :
    drawsSinceReset n (x :: tr) = drawsSinceReset (drawsSinceReset n [x]) tr := rfl

/-- The count wraps with its start. -/
theorem drawsSinceReset_mod (n : Nat) (tr : List (Event × Option Response)) :
    drawsSinceReset (n % 65536) tr % 65536 = drawsSinceReset n tr % 65536 := by
  induction tr generalizing n with
  | nil => exact Nat.mod_mod ..
  | cons x tr ih =>
    obtain ⟨e, resp⟩ := x
    cases e with
    | reset cause => rfl
    | request r =>
      simp only [drawsSinceReset_request]
      split
      · rw [← ih (n % 65536 + 1), Nat.mod_add_mod, ih]
      · exact ih n

/-- Each draw of the trace hands out one more than the draws before it, counted from `start` and from each reset. -/
def DrawsNumbered (start : Nat) (tr : List (Event × Option Response)) : Prop :=
  ∀ before x after, tr = before ++ x :: after → isDraw x.1 = true →
    ∃ v, drawn x = some v ∧ v.toNat = (drawsSinceReset start before + 1) % 65536

theorem drawsNumbered_nil (start : Nat) : DrawsNumbered start [] := by
  intro before x after split_eq
  simp at split_eq

theorem drawsNumbered_cons {start : Nat} {x : Event × Option Response} {tr : List (Event × Option Response)} :
    DrawsNumbered start (x :: tr) ↔
      (isDraw x.1 = true → ∃ v, drawn x = some v ∧ v.toNat = (start + 1) % 65536) ∧
        DrawsNumbered (drawsSinceReset start [x]) tr := by
  constructor
  · intro numbered
    exact ⟨numbered [] x tr rfl, fun before y after split_eq => numbered (x :: before) y after (by rw [split_eq]; rfl)⟩
  · rintro ⟨first, later⟩ before y after split_eq
    cases before with
    | nil => cases split_eq; exact first
    | cons z before => cases split_eq; exact later before y after rfl

theorem drawsNumbered_mod {start : Nat} {tr : List (Event × Option Response)} :
    DrawsNumbered (start % 65536) tr ↔ DrawsNumbered start tr := by
  have same : ∀ before, (drawsSinceReset (start % 65536) before + 1) % 65536 =
      (drawsSinceReset start before + 1) % 65536 := fun before => by
    rw [← Nat.mod_add_mod, drawsSinceReset_mod, Nat.mod_add_mod]
  simp only [DrawsNumbered, same]

/-! ## Every run -/

/-- A run does not stop; it accepts only what is presented; its draws are numbered from `SEQ` and from each reset; and
`SEQ` ends at the number of the last. -/
theorem trace_numbers_draws (n : Nat) (s : State) :
    ∃ tr t, trace n s = some (tr, t) ∧ (∀ x ∈ tr, x.1 ∈ s.requesters.flatten) ∧
      DrawsNumbered s.seq.toNat tr ∧ t.seq.toNat = drawsSinceReset s.seq.toNat tr % 65536 := by
  have idle : ∀ s : State, s.seq.toNat = drawsSinceReset s.seq.toNat [] % 65536 := fun s =>
    (Nat.mod_eq_of_lt s.seq.isLt).symm
  induction n generalizing s with
  | zero => exact ⟨[], s, rfl, nofun, drawsNumbered_nil _, idle s⟩
  | succ n ih =>
    cases accepted : fetch s with
    | none => exact ⟨[], s, trace_of_fetch_none _ accepted, nofun, drawsNumbered_nil _, idle s⟩
    | some next =>
      obtain ⟨e, s1⟩ := next
      obtain ⟨t, done, left, -⟩ := step_of_fetch_some accepted
      obtain ⟨tr, u, run, presented, numbered, last⟩ := ih t
      rw [left] at presented
      rw [step_seq_eq_drawsSinceReset accepted done] at numbered last
      refine ⟨(e, t.response) :: tr, u, by rw [trace_of_step n accepted done, run]; rfl, ?_, ?_, ?_⟩
      · refine List.forall_mem_cons.mpr ⟨?_, fun x hx => ?_⟩
        · exact (fetch_perm accepted).mem_iff.mpr List.mem_cons_self
        · exact (fetch_perm accepted).mem_iff.mpr (List.mem_cons_of_mem e (presented x hx))
      · exact drawsNumbered_cons.mpr
          ⟨fun drew => ⟨_, drawn_of_step accepted done drew, nextSeq_toNat s.seq⟩, drawsNumbered_mod.mp numbered⟩
      · rw [last, drawsSinceReset_mod, ← drawsSinceReset_cons]

/-- Settles O53, by induction on the number of steps. -/
theorem drawsCountFromTheLastReset : Obligations.DrawsCountFromTheLastReset := by
  intro n s
  obtain ⟨tr, t, run, -, numbered, last⟩ := trace_numbers_draws n s
  exact ⟨tr, t, run, numbered, last⟩

/-! ## Runs without a reset (R173) -/

section
variable {tr : List (Event × Option Response)} (requests : ∀ x ∈ tr, ∃ r, x.1 = .request r)
include requests

/-- With no reset every draw counts. -/
theorem drawsSinceReset_eq_add_countP (n : Nat) : drawsSinceReset n tr = n + tr.countP (fun x => isDraw x.1) := by
  induction tr generalizing n with
  | nil => rfl
  | cons x tr ih =>
    obtain ⟨⟨r, hr⟩, later⟩ := List.forall_mem_cons.mp requests
    obtain ⟨e, resp⟩ := x
    obtain rfl : e = .request r := hr
    rw [drawsSinceReset_request, ih later, List.countP_cons]
    split <;> omega

/-- With no reset the numbers handed out are consecutive, mod 2^16. -/
theorem map_toNat_drawn_eq_range {start : Nat} (numbered : DrawsNumbered start tr) :
    (tr.filterMap drawn).map BitVec.toNat =
      (List.range (tr.countP (fun x => isDraw x.1))).map (fun k => (start + k + 1) % 65536) := by
  induction tr generalizing start with
  | nil => rfl
  | cons x tr ih =>
    obtain ⟨first, later⟩ := drawsNumbered_cons.mp numbered
    obtain ⟨request, laterRequests⟩ := List.forall_mem_cons.mp requests
    rw [drawsSinceReset_eq_add_countP (List.forall_mem_singleton.mpr request)] at later
    have rest := ih laterRequests later
    cases drew : isDraw x.1 with
    | false =>
      rw [List.filterMap_cons_none (drawn_of_not_draw drew), rest]
      simp [drew]
    | true =>
      obtain ⟨v, hv, value⟩ := first drew
      rw [List.filterMap_cons_some hv, List.map_cons, rest]
      simp [drew, value, List.range_succ_eq_map, Nat.add_assoc, Nat.add_comm 1]

end

/-- Settles O16: no reset is presented, so none is in the trace, and the count starts at 0. -/
theorem sequentialDrawsCountFromOne : Obligations.SequentialDrawsCountFromOne := by
  intro n s zero noReset
  obtain ⟨tr, t, run, presented, numbered, last⟩ := trace_numbers_draws n s
  have requests : ∀ x ∈ tr, ∃ r, x.1 = .request r := fun x hx => by
    obtain ⟨stream, listed, hx'⟩ := List.mem_flatten.mp (presented x hx)
    exact noReset stream listed x.1 hx'
  have start : s.seq.toNat = 0 := by rw [zero]; rfl
  rw [start] at numbered last
  refine ⟨tr, t, run, ?_, ?_⟩
  · simpa only [Nat.zero_add] using map_toNat_drawn_eq_range requests numbered
  · rw [last, drawsSinceReset_eq_add_countP requests, Nat.zero_add]

/-! ## Concurrent draws (R174) -/

/-- Fewer than 2^16 consecutive numbers stay distinct mod 2^16. -/
theorem nodup_map_range_mod (start : Nat) {n : Nat} (h : n ≤ 65535) :
    ((List.range n).map (fun k => (start + k + 1) % 65536)).Nodup := by
  refine List.Nodup.map_on (fun j hj k hk same => ?_) List.nodup_range
  rw [List.mem_range] at hj hk
  omega

/-- Requesters that each present one draw are all served in as many steps, and nothing else is. -/
theorem trace_serves_concurrent_draws {s : State} {rs : List Request}
    (presented : s.requesters = rs.map (fun r => [Event.request r])) (allDraw : ∀ r ∈ rs, isDraw (.request r) = true) :
    ∃ tr t, trace rs.length s = some (tr, t) ∧ tr.length = rs.length ∧ ∀ x ∈ tr, isDraw x.1 = true := by
  have flat : s.requesters.flatten = rs.map Event.request := by
    rw [presented, ← List.flatMap_def, ← List.map_eq_flatMap]
  obtain ⟨tr, t, run, -, perm, -⟩ := everyPresentedEventIsAcceptedOnce s
  rw [flat] at perm
  rw [pending_eq_length_flatten, flat, List.length_map] at run
  refine ⟨tr, t, run, by simpa using perm.length_eq, fun x hx => ?_⟩
  obtain ⟨r, hr, eq⟩ := List.mem_map.mp (perm.subset (List.mem_map_of_mem hx))
  rw [← eq]
  exact allDraw r hr

/-- Settles O17: the trace is N draws, so their numbers are N consecutive ones; and any requester is chosen by some
number. -/
theorem concurrentDrawsReceiveDistinctNumbers : Obligations.ConcurrentDrawsReceiveDistinctNumbers := by
  intro s rs presented allDraw few
  refine ⟨?_, fun i hi => ?_⟩
  · obtain ⟨tr, t, run, len, served⟩ := trace_serves_concurrent_draws presented allDraw
    obtain ⟨tr', t', run', -, numbered, last⟩ := trace_numbers_draws rs.length s
    obtain ⟨rfl, rfl⟩ : tr = tr' ∧ t = t' := by simpa [run] using run'
    have requests := fun x hx => exists_request_of_isDraw (served x hx)
    have count : tr.countP (fun x => isDraw x.1) = rs.length := (List.countP_eq_length.mpr served).trans len
    have numbers := map_toNat_drawn_eq_range requests numbered
    rw [count] at numbers
    refine ⟨tr, t, run, len, ?_, ?_, fun v => ?_, ?_⟩
    · simpa using congrArg List.length numbers
    · exact List.Nodup.of_map BitVec.toNat (numbers ▸ nodup_map_range_mod _ few)
    · rw [← List.mem_map_of_injective fun _ _ => BitVec.eq_of_toNat_eq, numbers]
      simp [eq_comm]
    · rw [last, drawsSinceReset_eq_add_countP requests, count]
  · have waiting : s.requesters[i]? = some [.request rs[i]] := by simp [presented, hi]
    obtain ⟨n, chosen⟩ := exists_choice waiting
    exact ⟨[n], fetch_of_choice rfl rfl chosen⟩

end Sys2Proof.Machine
end

section
/-! The frames of 44_chunk_encoder.md: what CHUNK answers, how long a frame is, and where its terminal chunk stands. -/

namespace Sys2Proof.Machine

/-! ## CHUNK (R191) -/

/-- Settles O18, one clause for each side of the bound. -/
theorem chunkAnswersTheFrame : Obligations.ChunkAnswersTheFrame := fun _ s =>
  ⟨fun short => chunkIn_of_le short s, fun long => chunkIn_of_gt long s⟩

/-! ## The length of a frame (R192) -/

theorem chunk_length (bs : Bytes) : (chunk bs).length = 4 * ((bs.length + 2) / 3) := by
  induction bs using chunk.induct with
  | case1 b0 b1 b2 rest ih =>
    rw [chunk, List.length_append, length_emitFull, ih]
    simp only [List.length_cons]
    omega
  | case2 b0 b1 => simp [chunk]
  | case3 b0 => simp [chunk]
  | case4 => rfl

/-- Settles O19: a packet is 12 bytes longer than its payload. -/
theorem frameLengthLaw : Obligations.FrameLengthLaw := by
  refine ⟨chunk_length, fun seq opc payload _ => ?_⟩
  rw [chunk_length, layout_length]
  exact ⟨rfl, fun pair => by rw [pair], fun longest => by rw [longest]⟩

/-! ## The status of a chunk (R190, R193) -/

/-- A frame has a chunk `k` when raw bytes remain for it. -/
theorem lt_chunk_length_iff {bs : Bytes} {k : Nat} : 4 * k < (chunk bs).length ↔ 3 * k < bs.length := by
  rw [chunk_length]
  omega

/-- The status of chunk `k` follows from how many raw bytes remain (R190). -/
theorem byteAt_chunk_status {bs : Bytes} {k : Nat} (h : 3 * k < bs.length) :
    byteAt (chunk bs) (4 * k) =
      if 3 ≤ bs.length - 3 * k then 0x04#8 else if bs.length - 3 * k = 2 then 0x06#8 else 0x05#8 := by
  have status := congrArg (byteAt · 0) (chunkBytesStandInIndexOrder bs k h)
  simpa [byteAt] using status

/-- A chunk is full while three or more raw bytes remain. -/
theorem byteAt_chunk_of_full {bs : Bytes} {k : Nat} (h : 3 * k + 3 ≤ bs.length) :
    byteAt (chunk bs) (4 * k) = 0x04#8 := by
  rw [byteAt_chunk_status (by omega), if_pos (by omega)]

/-- A chunk is terminal when fewer than three raw bytes remain. -/
theorem byteAt_chunk_of_terminal {bs : Bytes} {k : Nat} (some_left : 3 * k < bs.length)
    (few_left : bs.length < 3 * k + 3) :
    byteAt (chunk bs) (4 * k) = 0x05#8 ∨ byteAt (chunk bs) (4 * k) = 0x06#8 := by
  rw [byteAt_chunk_status some_left, if_neg (by omega)]
  split
  · exact .inr rfl
  · exact .inl rfl

/-- Settles O21: a frame is well-formed, so no status is 0x07; a multiple of three never leaves one or two bytes;
otherwise the last chunk, and no other, has fewer than three. -/
theorem multipleOfThreeHasNoTerminalChunk : Obligations.MultipleOfThreeHasNoTerminalChunk := by
  intro bs k hk
  have some_left : 3 * k < bs.length := lt_chunk_length_iff.mp hk
  refine ⟨?_, fun multiple => ?_, fun _ notLast => ?_, fun other last => ?_⟩
  · obtain full | term1 | term2 := status_of_frameWf (chunk_frameWf bs) hk
    · rw [full]; decide
    · rw [term1]; decide
    · rw [term2]; decide
  · exact byteAt_chunk_of_full (by omega)
  · have more_left : 3 * (k + 1) < bs.length := lt_chunk_length_iff.mp notLast
    exact byteAt_chunk_of_full (by omega)
  · rw [chunk_length] at last
    exact byteAt_chunk_of_terminal some_left (by omega)

end Sys2Proof.Machine
end

section
/-! ENCODE_COMMAND of 45_pipeline.md under every configuration: its three answers, and the three requests it is equivalent
to. -/

namespace Sys2Proof.Machine

/-! ## The three answers (R210, R211) -/

/-- The draw comes before the payload is encoded, so an error of the payload leaves `SEQ` advanced (R211). -/
theorem encodeCommandIn_of_tooLarge {p : Params} {name : CommandName} {e : CommandSpec} {dur : Half}
    (found : lookup (catalog p) name = some e) (tooLarge : 255 < (e.encoder dur).length) (s : State) :
    encodeCommandIn p name dur s =
      .next ((s.setSeq (nextSeq s.seq)).setResponse ⟨.payloadTooLarge, none⟩) := by
  simp only [encodeCommandIn, found, encodePayload_tooLarge tooLarge, raise, draw]

/-- Settles O25, one clause for each case of the lookup and of the payload's length. -/
theorem encodeCommandResolvesThenDrawsThenEncodes : Obligations.EncodeCommandResolvesThenDrawsThenEncodes :=
  fun _ _ dur s => ⟨nextSeq s.seq, nextSeq_toNat s.seq, fun unknown => encodeCommandIn_of_unknown unknown dur s,
    fun _ found tooLarge => encodeCommandIn_of_tooLarge found tooLarge s,
    fun _ found fits => encodeCommandIn_of_fits found fits s⟩

/-! ## SEQ_NEXT, BUILD and CHUNK in turn (R213) -/

/-- Settles O27: a packet that BUILD answers is that of an entry whose payload fits, and is short enough for CHUNK under a
legal configuration. -/
theorem encodeCommandIsDrawThenBuildThenChunk : Obligations.EncodeCommandIsDrawThenBuildThenChunk := by
  intro p name dur s t pkt legal built answered
  have short : pkt.length ≤ p.maxDataLen := (length_le_of_buildIn built answered).trans legal.1
  obtain ⟨e, found, fits, rfl⟩ := packet_of_buildIn built answered
  have encoded := encodeCommandIn_of_fits found fits s
  have drew : exec .seqNext s =
      .next ((s.setSeq (nextSeq s.seq)).setResponse ⟨.ok, some (.seqn (nextSeq s.seq))⟩) := rfl
  exact ⟨_, encoded, rfl, _, _, drew, rfl, buildIn_of_fits dur _ _ found fits, rfl, chunkIn_of_le short _⟩

end Sys2Proof.Machine
end

section
/-! The errors of 60_exceptions.md: the status codes, the status that each operation answers, the order in which the
errors are checked, and what an error leaves as it was. -/

namespace Sys2Proof.Machine

/-! ## The kinds and their codes (R231, R233, R234) -/

/-- A code names a kind exactly when it is that kind's code, so 0x4-0xE name none (R231). -/
theorem statusOfCode_eq_some {c : BitVec 4} {st : Status} : statusOfCode c = some st ↔ st.code = c := by
  constructor
  · intro named
    unfold statusOfCode at named
    split at named <;> cases named
    all_goals next value => exact BitVec.eq_of_toNat_eq value.symm
  · rintro rfl
    cases st <;> rfl

/-- The three statuses that this hardware answers. -/
theorem status_of_responseWf {resp : Response} (wf : responseWf resp) :
    resp.status = .ok ∨ resp.status = .unknownCommand ∨ resp.status = .reqRefused := by
  unfold responseWf at wf
  split at wf
  · exact .inl wf.1
  · exact .inr wf

/-- Settles O36: a response that an instruction answers is one this hardware may give. -/
theorem statusCodesAndNeverRaisedKinds : Obligations.StatusCodesAndNeverRaisedKinds := by
  refine ⟨rfl, rfl, rfl, rfl, rfl, fun _ _ => statusOfCode_eq_some, fun i s t r done answered => ?_⟩
  obtain ⟨op, resp, stands, wf, -⟩ := answered_exec done
  cases stands.symm.trans answered
  obtain status | status | status := status_of_responseWf wf <;> simp [status]

/-! ## The status of each operation (R232, R235) -/

section
variable {s t : State}

/-! An operation that uses `NAME` answers UnknownCommand exactly when the name is not registered, since no payload of
this hardware is too large (R233). -/

theorem status_execResolve {name : CommandName} (h : execResolve name s = .next t) :
    t.response.map Response.status = some (if registered name then .ok else .unknownCommand) := by
  obtain ⟨unknown, rfl⟩ | ⟨e, found, rfl⟩ := resolveIn_cases h
  · simp [← lookup_hw_isSome, unknown]
  · simp [← lookup_hw_isSome, found]

theorem status_execBuild {name : CommandName} {dur seqv : Half} (h : execBuild name dur seqv s = .next t) :
    t.response.map Response.status = some (if registered name then .ok else .unknownCommand) := by
  obtain ⟨unknown, rfl⟩ | ⟨e, found, ⟨tooLarge, -⟩ | ⟨-, rfl⟩⟩ := buildIn_cases h
  · simp [← lookup_hw_isSome, unknown]
  · simp [encoder_length_of_lookup_hw found] at tooLarge
  · simp [← lookup_hw_isSome, found]

theorem status_execEncodeCommand {name : CommandName} {dur : Half} (h : execEncodeCommand name dur s = .next t) :
    t.response.map Response.status = some (if registered name then .ok else .unknownCommand) := by
  obtain ⟨unknown, rfl⟩ | ⟨e, found, ⟨tooLarge, -⟩ | ⟨-, rfl⟩⟩ := encodeCommandIn_cases h
  · simp [← lookup_hw_isSome, unknown]
  · simp [encoder_length_of_lookup_hw found] at tooLarge
  · simp [← lookup_hw_isSome, found]

/-! An operation that uses `DATA` answers ReqRefused exactly when it is over-long. -/

theorem status_execCrc {data : Bytes} (h : execCrc data s = .next t) :
    t.response.map Response.status = some (if Config.hw.maxDataLen < data.length then .reqRefused else .ok) := by
  obtain ⟨long, rfl⟩ | ⟨short, rfl⟩ := crcIn_cases h
  · simp [long]
  · simp [Nat.not_lt.mpr short]

theorem status_execChunk {data : Bytes} (h : execChunk data s = .next t) :
    t.response.map Response.status = some (if Config.hw.maxDataLen < data.length then .reqRefused else .ok) := by
  obtain ⟨long, rfl⟩ | ⟨short, rfl⟩ := chunkIn_cases h
  · simp [long]
  · simp [Nat.not_lt.mpr short]

end

/-! ## The order of the checks (R236) -/

/-- The status that R236's order gives a request of this hardware. -/
def checkedStatus (r : Request) : Status :=
  if isRefused r then .reqRefused else if namesUnknown r then .unknownCommand else .ok

theorem checkedStatus_of_illegal {r : Request} (illegal : headerOp r.hdr = none) : checkedStatus r = .reqRefused := by
  simp [checkedStatus, isRefused, illegal]

section
variable {op : Op} {r : Request} (selected : headerOp r.hdr = some op)
include selected

theorem checkedStatus_of_usesName (uses : usesName op = true) :
    checkedStatus r = if registered r.name then .ok else .unknownCommand := by
  have noData : usesData op = false := by revert uses; cases op <;> decide
  cases known : registered r.name <;> simp [checkedStatus, isRefused, namesUnknown, selected, uses, noData, known]

theorem checkedStatus_of_usesData (uses : usesData op = true) :
    checkedStatus r = if Config.hw.maxDataLen < r.data.length then .reqRefused else .ok := by
  have noName : usesName op = false := by revert uses; cases op <;> decide
  simp [checkedStatus, isRefused, namesUnknown, selected, uses, noName]

/-- A legal request is answered with its checked status. -/
theorem status_exec_operandsOf {s t : State} (done : exec (operandsOf op r) s = .next t) :
    t.response.map Response.status = some (checkedStatus r) := by
  cases op with
  | resolve => rw [checkedStatus_of_usesName selected rfl]; exact status_execResolve done
  | crc => rw [checkedStatus_of_usesData selected rfl]; exact status_execCrc done
  | build => rw [checkedStatus_of_usesName selected rfl]; exact status_execBuild done
  | seqNext =>
    cases done
    simp [checkedStatus, isRefused, namesUnknown, selected, usesData, usesName]
  | chunk => rw [checkedStatus_of_usesData selected rfl]; exact status_execChunk done
  | encodeCommand => rw [checkedStatus_of_usesName selected rfl]; exact status_execEncodeCommand done

end

/-- Settles O38: an illegal header is refused, and a legal request is answered with the status of its operation. -/
theorem errorsAreCheckedInOrder : Obligations.ErrorsAreCheckedInOrder := by
  intro s s1 r accepted
  cases selected : headerOp r.hdr with
  | none =>
    exact ⟨_, _, step_of_illegal accepted (decodeRequest_of_headerOp_none selected), rfl,
      (checkedStatus_of_illegal selected).symm⟩
  | some op =>
    have decoded := decodeRequest_ok.mpr ⟨op, headerOp_eq_some.mp selected, rfl⟩
    obtain ⟨t, done⟩ := exec_operandsOf_completes op r s1
    obtain ⟨resp, stands, status⟩ := Option.map_eq_some_iff.mp (status_exec_operandsOf selected done)
    exact ⟨t, resp, (step_of_decoded accepted decoded).trans done, stands, status⟩

/-! ## What an error leaves (R230, R237) -/

theorem status_of_handedOut {resp : Response} {v : Half} (h : handedOut resp = some v) : resp.status = .ok := by
  unfold handedOut at h
  split at h <;> cases h <;> rfl

/-- A draw is answered OK: its response hands out a number. -/
theorem status_of_draw {i : Instr} {s t : State} {resp : Response} (drew : draws i = true)
    (done : exec i s = .next t) (answered : t.response = some resp) : resp.status = .ok := by
  have handed := handedOut_of_draw drew done
  rw [answered] at handed
  exact status_of_handedOut handed

/-- A response with an error's status carries nothing else (R61). -/
theorem eq_of_status_ne_ok {resp : Response} (wf : responseWf resp) (error : resp.status ≠ .ok) :
    resp = ⟨resp.status, none⟩ := by
  have absent : resp.result = none := by simpa using mt (isSome_result_iff wf).mp error
  rw [← absent]

/-- Settles O39: an instruction that answers an error has not drawn, so it wrote the response port alone, and an error
has no result. -/
theorem errorsLeaveOnlyTheResponse : Obligations.ErrorsLeaveOnlyTheResponse := by
  intro i s t r done answered error
  obtain ⟨op, resp, stands, wf, -⟩ := answered_exec done
  cases stands.symm.trans answered
  obtain ⟨-, resp', rfl⟩ | ⟨drew, -⟩ := exec_next_cases done
  · rw [← eq_of_status_ne_ok wf error, ← answered]
    rfl
  · exact absurd (status_of_draw drew done answered) error

end Sys2Proof.Machine
end

section
/-! A step completes from every state and accepts one event while any is presented (70_reset_and_hazards.md). -/

namespace Sys2Proof.Machine

theorem pending_of_fetch_none {s : State} (h : fetch s = none) : s.pending = 0 := by
  rw [pending_eq_length_flatten, List.flatten_eq_nil_iff.mpr (fetch_none.mp h), List.length_nil]

/-- Settles O48: with nothing to accept the step leaves the state; otherwise it completes on what acceptance left, which
is one event fewer. -/
theorem everyStepCompletes : Obligations.EveryStepCompletes := by
  intro s
  cases hf : fetch s with
  | none =>
    have idle : s.pending = 0 := pending_of_fetch_none hf
    exact ⟨s, step_of_fetch_none hf, by rw [idle], fun _ => rfl⟩
  | some accepted =>
    obtain ⟨e, s1⟩ := accepted
    obtain ⟨t, ht, hreq, -⟩ := step_of_fetch_some hf
    have one_fewer : s.pending = t.pending + 1 := by
      rw [fetch_pending hf, State.pending, State.pending, hreq]
    exact ⟨t, ht, by omega, fun idle => by omega⟩

end Sys2Proof.Machine
end
